-- ==== Sys2Proof/Word.lean ====
section
/-! DEFINITION. The word types of the RC5 cipher engine (spec 00_scope.md rules R8, R9). Every value of the
hardware is unsigned: a `w`-bit word is an integer `v` with `0 ≤ v < 2^w`. -/

namespace Sys2Proof

/-- One byte of a byte-organised register (R9). -/
abbrev Byte := BitVec 8

/-- A host word and a command word: the host only ever moves 32 bits (R78, R100). -/
abbrev Word32 := BitVec 32

/-- A 128-bit register or an entry of S or L (R41, R45, R46, R48, R49). -/
abbrev Word128 := BitVec 128

/-- The cipher's Word of `w` bits (R8, R11). -/
abbrev Word (w : Nat) := BitVec w

end Sys2Proof
end

