-- ==== Sys2Proof/Config.lean ====
section
/-! DEFINITION. What the spec fixes for the platform or leaves open (spec 00_scope.md rule R7, 93 U1 to U5): the sizes of
the internal tables, the window's base, the completion latency and the unspecified contents of S and L. The four
`opaque` constants are FREE VALUES: they have no body, so no proof can learn what they are. -/

namespace Sys2Proof.Config

/-- R70: the register window is 0x400 bytes. -/
def windowSize : Nat := 0x400

/-- T_MAX of R7: the entries of the round-key table S (R48). -/
def tMax : Nat := 512

/-- C_MAX of R7: the entries of the key-word array L (R49). -/
def cMax : Nat := 255

/-- OPEN (R70, D35, U5): which 0x400-aligned block of the platform's address space the window fills. -/
opaque baseBlock : Nat

/-- BASE, aligned to 0x400 (R70). -/
def base : Nat := windowSize * baseBlock

/-- OPEN (R133, D14, U4): LAT. How many host accesses the bus carries between the acceptance of the given command word and
its completion, for the given draw of the free-value counter (log entry 2). -/
opaque latency : Word32 → Nat → Nat

/-- UNSPECIFIED (R48, R270, U1): entry by entry, the contents of S after a reset, for the given draw (log entry 3). -/
opaque freeS : Nat → Nat → Word128

/-- UNSPECIFIED (R49, R270, U2): entry by entry, the contents of L after a reset or after a key expansion has used it as
scratch, for the given draw (log entry 4). -/
opaque freeL : Nat → Nat → Word128

end Sys2Proof.Config
end

