-- ==== Sys2Proof/Syntax.lean ====
section
/-! DEFINITION. The commands of the engine as syntax: one constructor for each row of spec/opcode_table.json
(spec 30_encoding.md rules R102, R107). -/

namespace Sys2Proof

/-- The five word widths of W_SET (R7); an unsupported WS code has no constructor here (R35, R103). -/
inductive Width where
  | w8
  | w16
  | w32
  | w64
  | w128
  deriving DecidableEq, Repr

/-- The second operand V2 of a binary word-unit command (R104). -/
inductive Operand2 where
  /-- Register form, ISRC = 0: V2 is x[WY]. -/
  | wy
  /-- Immediate form, ISRC = 1: V2 is the zero-extended IMM, a number 0..255 (R105). -/
  | imm (v : Nat)
  deriving DecidableEq, Repr

/-- The commands. LEN of ENCRYPT and DECRYPT is a number of bytes, 0..255 (R106); the bounds of LEN and IMM are
`Instr.WellFormed`. -/
inductive Instr where
  /-- NOP (R140). -/
  | nop
  /-- CONFIGURE (R183). -/
  | configure
  /-- KEYEXP (R190). -/
  | keyexp
  /-- ENCRYPT len (R216). -/
  | encrypt (len : Nat)
  /-- DECRYPT len (R217). -/
  | decrypt (len : Nat)
  /-- KEYCLR (R192). -/
  | keyclr
  /-- WBUILD.w (R156). -/
  | wbuild (w : Width)
  /-- WADD.w (R157). -/
  | wadd (w : Width) (v2 : Operand2)
  /-- WSUB.w (R158). -/
  | wsub (w : Width) (v2 : Operand2)
  /-- WROTL.w (R159). -/
  | wrotl (w : Width) (v2 : Operand2)
  /-- WROTR.w (R160). -/
  | wrotr (w : Width) (v2 : Operand2)
  /-- WAND.w (R161). -/
  | wand (w : Width) (v2 : Operand2)
  /-- WOR.w (R161). -/
  | wor (w : Width) (v2 : Operand2)
  /-- WXOR.w (R161). -/
  | wxor (w : Width) (v2 : Operand2)
  /-- WEQ.w (R163). -/
  | weq (w : Width) (v2 : Operand2)
  deriving DecidableEq, Repr

end Sys2Proof
end

