-- ==== Sys2Proof/Machine/State.lean ====
section
/-! DEFINITION. The state of the engine and of its host, as plain data (spec 10_state.md rules R20 to R56), and the state
after reset (R54, R270). -/

namespace Sys2Proof.Machine

/-- The code in STATUS.ERR (R240). Codes 7..15 are reserved and never produced, so they have no constructor (U6). -/
inductive ErrCode where
  /-- 0: success. -/
  | ok
  /-- 1: CONFIGURE refused the configuration (R183). -/
  | configError
  /-- 2: KLEN differs from CFG.KEYBYTES (R184). -/
  | keyLengthError
  /-- 3: LEN differs from 2u (R212). -/
  | bufferBoundsError
  /-- 4: the engine is not configured (R241). -/
  | notConfigured
  /-- 5: an operand is not a w-bit word (R155). -/
  | widthError
  /-- 6: the command word is not legal (R108). -/
  | illegalCommand
  deriving DecidableEq, Repr

/-- CFG (R34). The reserved bits read 0 and ignore writes, so they are not stored. Any value may stand in each field;
only CONFIGURE checks it. -/
structure Cfg where
  /-- WS [2:0] (R35). -/
  ws : BitVec 3
  /-- ROUNDS [15:8] (R36). -/
  rounds : BitVec 8
  /-- KEYBYTES [23:16] (R37). -/
  keyBytes : BitVec 8
  /-- PQOVR [24] (R38). -/
  pqovr : Bool
  deriving DecidableEq, Repr

/-- What the host does next on the bus (R20, R72, R73, R112, R270). Addresses are the platform's. -/
inductive HostOp where
  /-- `MemRead(addr, 4)` (R72). -/
  | read (addr : Nat)
  /-- `MemWrite(addr, 4, v)` (R73). -/
  | write (addr : Nat) (v : Word32)
  /-- The host's polling loop `wait`: read STATUS until BUSY = 0 (R112). -/
  | wait
  /-- The platform asserts the reset input (R270). -/
  | reset
  deriving DecidableEq, Repr

/-- The byte-organised registers P_OVR, Q_OVR, BIN, BOUT, WX, WY, WZ and KEY, each byte at its offset in the window
(R74, R75). Canonical: offsets strictly rising, no zero byte listed; an unlisted byte is 0, its reset value (R54). -/
abbrev Memory := List Host.Cell

/-- Everything the spec gives the machine, and the host's side of the bus. ID and CMD have no storage (R22, R23), irq is
`State.irq` (R53), and the 128-bit registers and the buffers are bytes of `mem`. -/
structure State where
  /-- STATUS.BUSY (R25). -/
  busy : Bool
  /-- STATUS.CFG_VALID (R26). -/
  cfgValid : Bool
  /-- STATUS.KEY_VALID (R27). -/
  keyValid : Bool
  /-- STATUS.DONE (R28). -/
  done : Bool
  /-- STATUS.ERR (R29). -/
  err : ErrCode
  /-- STATUS.OVR (R30). -/
  ovr : Bool
  /-- STATUS.BUSERR (R31). -/
  busErr : Bool
  /-- CTRL.IE (R33); SRST reads 0 and is not stored. -/
  ie : Bool
  /-- CFG (R34). -/
  cfg : Cfg
  /-- KLEN [7:0] (R40). -/
  klen : BitVec 8
  /-- The bytes of P_OVR, Q_OVR, BIN, BOUT, WX, WY, WZ, KEY (R41 to R46). -/
  mem : Memory
  /-- The round-key table, 512 entries (R48). -/
  S : List Word128
  /-- The key-word array, 255 entries (R49). -/
  L : List Word128
  /-- PEND (R50), meaningful only while BUSY. -/
  pend : Word32
  /-- The model's own: the host's accesses still to come, first one first (R20, R82). -/
  host : List HostOp
  /-- The model's own: the values the host's reads returned, the latest first (R288). -/
  reads : List Word32
  /-- The model's own: while BUSY, how many host accesses still precede the completion (R133). -/
  delay : Nat
  /-- The model's own: how many free values have been drawn. -/
  fresh : Nat
  deriving DecidableEq, Repr

/-- The hardware has no traps (R246): no step stops with a fault, so there is no reason for one. Every error is a code in
STATUS.ERR or a sticky STATUS bit, and the machine goes on. -/
inductive Fault where
  deriving DecidableEq, Repr

/-- Why the model has no meaning for a step. -/
inductive Refusal where
  /-- Raised by `exec` for an instruction without a meaning yet (none is left). Safe. -/
  | notModelled (mnemonic : String)
  /-- Raised by a host access at an address outside the window, which belongs to the platform (R79, U10). Safe: the
  hardware does not take part in such an access. -/
  | outsideWindow
  deriving DecidableEq, Repr

/-- The state after reset (R54, R270). S, L and PEND have no reset value in the spec: zero here (log entries 3, 4, 5). The
host has nothing to do, no read has returned, no free value has been drawn (log entries 1, 2, 6). -/
def State.reset : State where
  busy := false
  cfgValid := false
  keyValid := false
  done := false
  err := .ok
  ovr := false
  busErr := false
  ie := false
  cfg := ⟨0, 0, 0, false⟩
  klen := 0
  mem := []
  S := List.replicate Config.tMax 0
  L := List.replicate Config.cMax 0
  pend := 0
  host := []
  reads := []
  delay := 0
  fresh := 0

end Sys2Proof.Machine
end

