-- ==== Sys2Proof/Machine/WordOps.lean ====
section
/-! DEFINITION. The word primitives (spec 41_word_unit.md rules R150 to R153 and 00_scope.md rule R10): wrapping add and
subtract, the two rotates, truncation and zero extension, and little-endian byte sequences. -/

namespace Sys2Proof.Machine

/-- The width in bits (R35). -/
def widthBits : Width → Nat
  | .w8 => 8
  | .w16 => 16
  | .w32 => 32
  | .w64 => 64
  | .w128 => 128

/-- u, the bytes of a word (R7, R12). -/
def widthBytes (w : Width) : Nat := widthBits w / 8

/-- `add_w` (R150). -/
def addW {w : Nat} (a b : Word w) : Word w := a + b

/-- `sub_w` (R151). -/
def subW {w : Nat} (a b : Word w) : Word w := a - b

/-- `rotl_w(x, n)` (R152): the amount is reduced modulo the width, and an amount of 0 is guarded. -/
def rotl {w : Nat} (x : Word w) (n : Nat) : Word w :=
  let s := n % w
  if s = 0 then x else (x <<< s) ||| (x >>> (w - s))

/-- `rotr_w(x, n)` (R153). -/
def rotr {w : Nat} (x : Word w) (n : Nat) : Word w :=
  let s := n % w
  if s = 0 then x else (x >>> s) ||| (x <<< (w - s))

/-- `trunc_w` (R10). -/
def trunc (w : Nat) {n : Nat} (v : BitVec n) : Word w := v.setWidth w

/-- `zext_128` (R10). -/
def zext128 {w : Nat} (v : Word w) : Word128 := v.setWidth 128

/-- `LE(bytes)` (R10): byte k has weight `2^(8k)`. -/
def leValue : List Byte → Nat
  | [] => 0
  | b :: bs => b.toNat + 256 * leValue bs

/-- `toLE_n(v)` (R10): n bytes, byte k being `v[8k+7:8k]`. -/
def leBytes : Nat → Nat → List Byte
  | 0, _ => []
  | n + 1, v => BitVec.ofNat 8 v :: leBytes n (v / 256)

/-- `n` zero bytes. -/
def zeroBytes (n : Nat) : List Byte := List.replicate n 0

end Sys2Proof.Machine
end

