-- ==== Sys2Proof/Machine/Cipher.lean ====
section
/-! DEFINITION. The block transform (spec 43_block_cipher.md rules R213, R214, R220). -/

namespace Sys2Proof.Machine

/-- `S[i]`. The block transform reads no entry beyond 2r+1 (R220). -/
def entry {w : Nat} (S : List (Word w)) (i : Nat) : Word w := S.getD i 0

/-- Round `i` of R213. In the second line A is the value just computed. -/
def encryptRound {w : Nat} (S : List (Word w)) (i : Nat) (x : Word w × Word w) : Word w × Word w :=
  let A := addW (rotl (x.1 ^^^ x.2) x.2.toNat) (entry S (2 * i))
  let B := addW (rotl (x.2 ^^^ A) A.toNat) (entry S (2 * i + 1))
  (A, B)

/-- Rounds 1 to `r` of R213, in this order. -/
def encryptRounds {w : Nat} (S : List (Word w)) (r : Nat) (x : Word w × Word w) : Word w × Word w :=
  match r with
  | 0 => x
  | i + 1 => encryptRound S (i + 1) (encryptRounds S i x)

/-- EncryptWords(A, B, S, w, r) of R213. -/
def encryptWords {w : Nat} (S : List (Word w)) (r : Nat) (x : Word w × Word w) : Word w × Word w :=
  encryptRounds S r (addW x.1 (entry S 0), addW x.2 (entry S 1))

/-- Round `i` of R214. In the second line B is the value just computed. -/
def decryptRound {w : Nat} (S : List (Word w)) (i : Nat) (x : Word w × Word w) : Word w × Word w :=
  let B := rotr (subW x.2 (entry S (2 * i + 1))) x.1.toNat ^^^ x.1
  let A := rotr (subW x.1 (entry S (2 * i))) B.toNat ^^^ B
  (A, B)

/-- Rounds `r` downto 1 of R214. -/
def decryptRounds {w : Nat} (S : List (Word w)) (r : Nat) (x : Word w × Word w) : Word w × Word w :=
  match r with
  | 0 => x
  | i + 1 => decryptRounds S i (decryptRound S (i + 1) x)

/-- DecryptWords(A, B, S, w, r) of R214. -/
def decryptWords {w : Nat} (S : List (Word w)) (r : Nat) (x : Word w × Word w) : Word w × Word w :=
  let y := decryptRounds S r x
  (subW y.1 (entry S 0), subW y.2 (entry S 1))

end Sys2Proof.Machine
end

