-- ==== Sys2Proof/Machine/KeySchedule.lean ====
section
/-! DEFINITION. The magic constants and the key expansion (spec 42_engine_setup.md rules R180 to R189). -/

namespace Sys2Proof.Machine

/-- ROM_P(w), the table of R180 (log entry 7 for w = 8, 16, 128). -/
def romPValue : Width → Nat
  | .w8 => 0xB7
  | .w16 => 0xB7E1
  | .w32 => 0xB7E15163
  | .w64 => 0xB7E151628AED2A6B
  | .w128 => 0xB7E151628AED2A6ABF7158809CF4F3C7

/-- ROM_Q(w), the table of R180 (log entry 7 for w = 8, 16, 128). -/
def romQValue : Width → Nat
  | .w8 => 0x9F
  | .w16 => 0x9E37
  | .w32 => 0x9E3779B9
  | .w64 => 0x9E3779B97F4A7C15
  | .w128 => 0x9E3779B97F4A7C15F39CC0605CEDC835

/-- ROM_P(w) as a word (R180). -/
def romP (w : Width) : Word (widthBits w) := BitVec.ofNat _ (romPValue w)

/-- ROM_Q(w) as a word (R180). -/
def romQ (w : Width) : Word (widthBits w) := BitVec.ofNat _ (romQValue w)

/-- `ceil(a / b)` (R10). -/
def ceilDiv (a b : Nat) : Nat := (a + b - 1) / b

/-- One pass of the loop of R185: `L[i div u] <- add_w(rotl_w(L[i div u], 8), K[i])`. -/
def keyWordStep {w : Nat} (u i : Nat) (k : Byte) (L : List (Word w)) : List (Word w) :=
  L.set (i / u) (addW (rotl (L.getD (i / u) 0) 8) (k.setWidth w))

/-- The loop of R185 over the indices `n-1` downto 0. -/
def keyWordsLoop {w : Nat} (u : Nat) (K : List Byte) (n : Nat) (L : List (Word w)) : List (Word w) :=
  match n with
  | 0 => L
  | i + 1 => keyWordsLoop u K i (keyWordStep u i (K.getD i 0) L)

/-- KeyWords(K, b, w) of R185, with b the length of K and c = ceil(b / u) words. -/
def keyWords (w : Nat) (K : List Byte) : List (Word w) :=
  keyWordsLoop (w / 8) K K.length (List.replicate (ceilDiv K.length (w / 8)) 0)

/-- Step 2 of R187: `n` entries from `P` on, each `Q` above the one before it. -/
def seedTable {w : Nat} (P Q : Word w) (n : Nat) : List (Word w) :=
  match n with
  | 0 => []
  | n + 1 => P :: seedTable (addW P Q) Q n

/-- The working words of step 3 of R187 (R51). -/
structure Mix (w : Nat) where
  /-- The round-key table. -/
  S : List (Word w)
  /-- The key words. -/
  L : List (Word w)
  /-- The accumulator A. -/
  A : Word w
  /-- The accumulator B. -/
  B : Word w
  /-- The index over S. -/
  i : Nat
  /-- The index over L. -/
  j : Nat
  deriving DecidableEq, Repr

/-- One pass of the loop of step 3 of R187, with t = |S| and c = |L|. -/
def mixStep {w : Nat} (t c : Nat) (m : Mix w) : Mix w :=
  let A := rotl (addW (addW (m.S.getD m.i 0) m.A) m.B) 3
  let B := rotl (addW (addW (m.L.getD m.j 0) A) m.B) (addW A m.B).toNat
  { S := m.S.set m.i A, L := m.L.set m.j B, A := A, B := B, i := (m.i + 1) % t, j := (m.j + 1) % c }

/-- `n` passes of `mixStep`. -/
def mixLoop {w : Nat} (t c n : Nat) (m : Mix w) : Mix w :=
  match n with
  | 0 => m
  | n + 1 => mixLoop t c n (mixStep t c m)

/-- KeyExpand(K, w, r, P, Q) of R187. -/
def keyExpand {w : Nat} (K : List Byte) (r : Nat) (P Q : Word w) : List (Word w) :=
  let t := 2 * (r + 1)
  let c := ceilDiv K.length (w / 8)
  (mixLoop t c (3 * max t c) { S := seedTable P Q t, L := keyWords w K, A := 0, B := 0, i := 0, j := 0 }).S

end Sys2Proof.Machine
end

