-- ==== Sys2Proof/WellFormed.lean ====
section
/-! DEFINITION. Which commands as syntax a command word can carry: LEN and IMM are 8-bit fields (spec 30_encoding.md rules
R101, R105, R106). The width codes, the reserved fields and the zero fields of R108 cannot be written wrong in `Instr`:
`Instr` has no place for them. -/

namespace Sys2Proof

/-- R105: an immediate is 0..255. -/
def Operand2.WellFormed : Operand2 → Bool
  | .wy => true
  | .imm v => decide (v < 256)

/-- R105, R106: every number of the command fits its 8-bit field. -/
def Instr.WellFormed : Instr → Bool
  | .nop => true
  | .configure => true
  | .keyexp => true
  | .encrypt len => decide (len < 256)
  | .decrypt len => decide (len < 256)
  | .keyclr => true
  | .wbuild _ => true
  | .wadd _ v2 => v2.WellFormed
  | .wsub _ v2 => v2.WellFormed
  | .wrotl _ v2 => v2.WellFormed
  | .wrotr _ v2 => v2.WellFormed
  | .wand _ v2 => v2.WellFormed
  | .wor _ v2 => v2.WellFormed
  | .wxor _ v2 => v2.WellFormed
  | .weq _ v2 => v2.WellFormed

end Sys2Proof
end

