-- ==== Sys2Proof/Decode.lean ====
section
/-! DEFINITION. Decoding and encoding of the one command format CMD32 (spec 30_encoding.md rules R100 to R111), the legality
predicate of R108 and the assembler text of R111. -/

namespace Sys2Proof

/-- `v[hi:lo]` of R9: `(v >> lo) mod 2^(hi-lo+1)`. -/
def slice (v : Word32) (hi lo : Nat) : Nat := v.toNat / 2 ^ lo % 2 ^ (hi - lo + 1)

/-- Why a command word is illegal (R109). -/
inductive DecodeError where
  /-- OP in 0x06..0x0F or 0x19..0xFF. -/
  | reservedOpcode
  /-- RSV1 or RSV2 is nonzero. -/
  | reservedField
  /-- WS is 5, 6 or 7 in a word-unit command. -/
  | unsupportedWidth
  /-- WS, ISRC or IMM is nonzero in a command that requires it to be 0. -/
  | unusedField
  deriving DecidableEq, Repr

/-- WIDTH(ws) of R35 and R103; codes 5, 6 and 7 are unsupported. -/
def Width.ofCode : Nat → Option Width
  | 0 => some .w8
  | 1 => some .w16
  | 2 => some .w32
  | 3 => some .w64
  | 4 => some .w128
  | _ => none

/-- The WS code of a width (R35). -/
def Width.code : Width → Nat
  | .w8 => 0
  | .w16 => 1
  | .w32 => 2
  | .w64 => 3
  | .w128 => 4

/-- A command that uses neither WS, ISRC nor IMM (R108, OP 0x00, 0x01, 0x02, 0x05). -/
def decodePlain (ws isrc imm : Nat) (i : Instr) : Except DecodeError Instr :=
  if ws = 0 ∧ isrc = 0 ∧ imm = 0 then .ok i else .error .unusedField

/-- A block command: bits [23:16] are LEN, WS and ISRC must be 0 (R106, R108). -/
def decodeBlock (ws isrc len : Nat) (i : Nat → Instr) : Except DecodeError Instr :=
  if ws = 0 ∧ isrc = 0 then .ok (i len) else .error .unusedField

/-- WBUILD: WS selects the width, ISRC and IMM must be 0 (R104, R108). -/
def decodeUnary (ws isrc imm : Nat) (i : Width → Instr) : Except DecodeError Instr :=
  match Width.ofCode ws with
  | none => .error .unsupportedWidth
  | some w => if isrc = 0 ∧ imm = 0 then .ok (i w) else .error .unusedField

/-- A binary word-unit command: WS selects the width, ISRC the second operand, and IMM must be 0 in register form
(R103 to R105, R108). -/
def decodeBinary (ws isrc imm : Nat) (i : Width → Operand2 → Instr) : Except DecodeError Instr :=
  match Width.ofCode ws with
  | none => .error .unsupportedWidth
  | some w =>
    if isrc = 1 then .ok (i w (.imm imm))
    else if imm = 0 then .ok (i w .wy) else .error .unusedField

/-- The opcode map of R102, given the other fields. -/
def decodeOp (op ws isrc imm : Nat) : Except DecodeError Instr :=
  match op with
  | 0x00 => decodePlain ws isrc imm .nop
  | 0x01 => decodePlain ws isrc imm .configure
  | 0x02 => decodePlain ws isrc imm .keyexp
  | 0x03 => decodeBlock ws isrc imm .encrypt
  | 0x04 => decodeBlock ws isrc imm .decrypt
  | 0x05 => decodePlain ws isrc imm .keyclr
  | 0x10 => decodeUnary ws isrc imm .wbuild
  | 0x11 => decodeBinary ws isrc imm .wadd
  | 0x12 => decodeBinary ws isrc imm .wsub
  | 0x13 => decodeBinary ws isrc imm .wrotl
  | 0x14 => decodeBinary ws isrc imm .wrotr
  | 0x15 => decodeBinary ws isrc imm .wand
  | 0x16 => decodeBinary ws isrc imm .wor
  | 0x17 => decodeBinary ws isrc imm .wxor
  | 0x18 => decodeBinary ws isrc imm .weq
  | _ => .error .reservedOpcode

/-- Decode(v) of R110: total on 32-bit words, with the fields of R101. -/
def decode (v : Word32) : Except DecodeError Instr :=
  if slice v 31 24 = 0 ∧ slice v 15 12 = 0 then
    decodeOp (slice v 7 0) (slice v 10 8) (slice v 11 11) (slice v 23 16)
  else .error .reservedField

/-- `Legal(v)` as R108 writes it, independent of `decode`. -/
def Legal (v : Word32) : Bool :=
  let op := slice v 7 0
  let ws := slice v 10 8
  let is := slice v 11 11
  let imm := slice v 23 16
  slice v 31 24 == 0 && slice v 15 12 == 0 &&
    (if op == 0x00 || op == 0x01 || op == 0x02 || op == 0x05 then ws == 0 && is == 0 && imm == 0
     else if op == 0x03 || op == 0x04 then ws == 0 && is == 0
     else if op == 0x10 then decide (ws ≤ 4) && is == 0 && imm == 0
     else if decide (0x11 ≤ op) && decide (op ≤ 0x18) then decide (ws ≤ 4) && (is == 1 || imm == 0)
     else false)

/-- The OP field of a command (R102). -/
def Instr.opcode : Instr → Nat
  | .nop => 0x00
  | .configure => 0x01
  | .keyexp => 0x02
  | .encrypt _ => 0x03
  | .decrypt _ => 0x04
  | .keyclr => 0x05
  | .wbuild _ => 0x10
  | .wadd _ _ => 0x11
  | .wsub _ _ => 0x12
  | .wrotl _ _ => 0x13
  | .wrotr _ _ => 0x14
  | .wand _ _ => 0x15
  | .wor _ _ => 0x16
  | .wxor _ _ => 0x17
  | .weq _ _ => 0x18

/-- The ISRC bit (R104). -/
def Operand2.isrc : Operand2 → Nat
  | .wy => 0
  | .imm _ => 1

/-- The IMM field (R105). -/
def Operand2.immField : Operand2 → Nat
  | .wy => 0
  | .imm v => v

/-- CMD32 from its fields, RSV1 = RSV2 = 0 (R101). -/
def encodeFields (op ws isrc imm : Nat) : Word32 :=
  BitVec.ofNat 32 (op + ws * 2 ^ 8 + isrc * 2 ^ 11 + imm * 2 ^ 16)

/-- The command word of a command (R107). -/
def encode (i : Instr) : Word32 :=
  match i with
  | .nop => encodeFields i.opcode 0 0 0
  | .configure => encodeFields i.opcode 0 0 0
  | .keyexp => encodeFields i.opcode 0 0 0
  | .encrypt len => encodeFields i.opcode 0 0 len
  | .decrypt len => encodeFields i.opcode 0 0 len
  | .keyclr => encodeFields i.opcode 0 0 0
  | .wbuild w => encodeFields i.opcode w.code 0 0
  | .wadd w v2 => encodeFields i.opcode w.code v2.isrc v2.immField
  | .wsub w v2 => encodeFields i.opcode w.code v2.isrc v2.immField
  | .wrotl w v2 => encodeFields i.opcode w.code v2.isrc v2.immField
  | .wrotr w v2 => encodeFields i.opcode w.code v2.isrc v2.immField
  | .wand w v2 => encodeFields i.opcode w.code v2.isrc v2.immField
  | .wor w v2 => encodeFields i.opcode w.code v2.isrc v2.immField
  | .wxor w v2 => encodeFields i.opcode w.code v2.isrc v2.immField
  | .weq w v2 => encodeFields i.opcode w.code v2.isrc v2.immField

/-- The command word whose low `nbits` bits are `w` and whose other bits are 0. -/
def tableWord (nbits w : Nat) : Word32 := BitVec.ofNat 32 (w % 2 ^ nbits)

/-- What `decode` reads from the opcode table's word `w` of `nbits` bits. A command is one 32-bit word on a 32-bit bus
(R100), so the table's bit numbers are the bus's. -/
def decodeTableWord (nbits w : Nat) : Option Instr :=
  match decode (tableWord nbits w) with
  | .ok i => some i
  | .error _ => none

/-- `<w>` of the assembler syntax (R111). -/
def Width.text : Width → String
  | .w8 => "8"
  | .w16 => "16"
  | .w32 => "32"
  | .w64 => "64"
  | .w128 => "128"

/-- `#<imm>` or nothing (R111). -/
def Operand2.text : Operand2 → String
  | .wy => ""
  | .imm v => " #" ++ toString v

/-- The assembler syntax of R111. -/
def Instr.text : Instr → String
  | .nop => "NOP"
  | .configure => "CONFIGURE"
  | .keyexp => "KEYEXP"
  | .encrypt len => "ENCRYPT " ++ toString len
  | .decrypt len => "DECRYPT " ++ toString len
  | .keyclr => "KEYCLR"
  | .wbuild w => "WBUILD." ++ w.text
  | .wadd w v2 => "WADD." ++ w.text ++ v2.text
  | .wsub w v2 => "WSUB." ++ w.text ++ v2.text
  | .wrotl w v2 => "WROTL." ++ w.text ++ v2.text
  | .wrotr w v2 => "WROTR." ++ w.text ++ v2.text
  | .wand w v2 => "WAND." ++ w.text ++ v2.text
  | .wor w v2 => "WOR." ++ w.text ++ v2.text
  | .wxor w v2 => "WXOR." ++ w.text ++ v2.text
  | .weq w v2 => "WEQ." ++ w.text ++ v2.text

end Sys2Proof
end

