-- ==== Sys2Proof/Machine/Memory.lean ====
section
/-! DEFINITION. The bytes of the byte-organised registers (spec 20_memory.md rules R72 to R75), as a list in one canonical
form: offsets strictly rising and no zero byte. An unlisted byte reads 0, which is the reset value of every one of these
bytes (10_state.md rule R54). -/

namespace Sys2Proof.Machine

/-- The canonical form of `Memory`. -/
abbrev Memory.wf (m : Memory) : Prop :=
  m.Pairwise (fun a b => a.1 < b.1) ∧ ∀ c ∈ m, c.2 ≠ 0

/-- `byte(o)`: the byte stored at offset `o` (R72). -/
def Memory.read (m : Memory) (o : Nat) : Byte :=
  match m with
  | [] => 0
  | c :: m => if c.1 = o then c.2 else Memory.read m o

/-- The cell `(o, v)` put in its place. -/
def Memory.insert (m : Memory) (o : Nat) (v : Byte) : Memory :=
  match m with
  | [] => [(o, v)]
  | c :: m => if o < c.1 then (o, v) :: c :: m else c :: Memory.insert m o v

/-- No cell at `o`. -/
def Memory.erase (m : Memory) (o : Nat) : Memory := m.filter (fun c => c.1 != o)

/-- `byte(o) <- v` (R73). Writing 0 removes the entry. -/
def Memory.write (m : Memory) (o : Nat) (v : Byte) : Memory :=
  if v = 0 then m.erase o else (m.erase o).insert o v

/-- The bytes `bs` from offset `o` upwards. -/
def Memory.writeBytes (m : Memory) (o : Nat) (bs : List Byte) : Memory :=
  match bs with
  | [] => m
  | b :: bs => Memory.writeBytes (m.write o b) (o + 1) bs

/-- The `n` bytes from offset `o` upwards. -/
def Memory.readBytes (m : Memory) (o n : Nat) : List Byte :=
  match n with
  | 0 => []
  | n + 1 => m.read o :: Memory.readBytes m (o + 1) n

/-- The 32-bit word at offset `o`, little-endian lanes (R72, R74). -/
def Memory.readWord (m : Memory) (o : Nat) : Word32 := BitVec.ofNat 32 (leValue (m.readBytes o 4))

/-- The 32-bit word at offset `o` set to `v`, little-endian lanes (R73, R74). -/
def Memory.writeWord (m : Memory) (o : Nat) (v : Word32) : Memory := m.writeBytes o (leBytes 4 v.toNat)

/-- A 128-bit register stored as the 16 bytes from offset `o` (R41, R45, R46). -/
def Memory.read128 (m : Memory) (o : Nat) : Word128 := BitVec.ofNat 128 (leValue (m.readBytes o 16))

/-- All 16 bytes of the 128-bit register at offset `o` set from `v` (R46). -/
def Memory.write128 (m : Memory) (o : Nat) (v : Word128) : Memory := m.writeBytes o (leBytes 16 v.toNat)

end Sys2Proof.Machine
end

