-- ==== Sys2Proof/Machine/Flags.lean ====
section
/-! DEFINITION. The hardware has no arithmetic flags (spec 10_state.md rule R52). What it has are the STATUS bits, the interrupt
output, and the registers CTRL, CFG and KLEN as 32-bit words with their reserved bits 0 (R24 to R40, R53). -/

namespace Sys2Proof.Machine

/-- The 4-bit code of STATUS.ERR (R240). -/
def errValue : ErrCode → Nat
  | .ok => 0
  | .configError => 1
  | .keyLengthError => 2
  | .bufferBoundsError => 3
  | .notConfigured => 4
  | .widthError => 5
  | .illegalCommand => 6

/-- x[STATUS] (R24). -/
def State.statusWord (s : State) : Word32 :=
  BitVec.ofNat 32 (s.busy.toNat + 2 * s.cfgValid.toNat + 4 * s.keyValid.toNat + 8 * s.done.toNat
    + 16 * errValue s.err + 256 * s.ovr.toNat + 512 * s.busErr.toNat)

/-- x[CTRL] (R33): SRST and the reserved bits read 0. -/
def State.ctrlWord (s : State) : Word32 := BitVec.ofNat 32 s.ie.toNat

/-- x[CFG] from its fields (R34). -/
def Cfg.word (c : Cfg) : Word32 :=
  BitVec.ofNat 32 (c.ws.toNat + 2 ^ 8 * c.rounds.toNat + 2 ^ 16 * c.keyBytes.toNat + 2 ^ 24 * c.pqovr.toNat)

/-- The fields of CFG taken from a written value; the reserved bits are dropped (R34, R39). -/
def cfgOfWord (v : Word32) : Cfg where
  ws := v.extractLsb' 0 3
  rounds := v.extractLsb' 8 8
  keyBytes := v.extractLsb' 16 8
  pqovr := v.getLsbD 24

/-- x[KLEN] (R40). -/
def State.klenWord (s : State) : Word32 := s.klen.setWidth 32

/-- The interrupt output, at every instant (R53, R250). -/
def State.irq (s : State) : Bool := s.done && s.ie

/-- A host write of `v` to STATUS: write 1 to clear DONE, OVR and BUSERR (R32). -/
def State.writeStatus (v : Word32) (s : State) : State :=
  { s with
    done := s.done && !v.getLsbD 3
    ovr := s.ovr && !v.getLsbD 8
    busErr := s.busErr && !v.getLsbD 9 }

end Sys2Proof.Machine
end

