-- ==== Sys2Proof/Machine/Ops.lean ====
section
/-! DEFINITION. The operations shared by all commands and host accesses: the named 128-bit registers, the acceptance and the
completion of a command, the reporting of an error, and reset (spec 40_command_execution.md rules R130 to R137,
60_exceptions.md rules R240 to R247, 70_reset_and_hazards.md rules R270 to R272). The hardware has no traps (R246):
ending with an error code is `State.complete`, and the host's "return" is its next command (R247). -/

namespace Sys2Proof.Machine

/-- x[P_OVR] (R41). -/
def State.pOvr (s : State) : Word128 := s.mem.read128 0x020

/-- x[Q_OVR] (R41). -/
def State.qOvr (s : State) : Word128 := s.mem.read128 0x030

/-- x[WX] (R45). -/
def State.wx (s : State) : Word128 := s.mem.read128 0x080

/-- x[WY] (R45). -/
def State.wy (s : State) : Word128 := s.mem.read128 0x090

/-- x[WZ] (R46). -/
def State.wz (s : State) : Word128 := s.mem.read128 0x0A0

/-- `x[WZ] <- zext_128(z)`, all 128 bits (R46, R154). -/
def State.setWz {w : Nat} (z : Word w) (s : State) : State :=
  { s with mem := s.mem.write128 0x0A0 (zext128 z) }

/-- Acceptance of the command word `v` by an idle engine (R130). The completion will follow after `Config.latency` more host
accesses (R133; log entry 2). -/
def State.accept (v : Word32) (s : State) : State :=
  { s with
    pend := v
    busy := true
    done := false
    delay := Config.latency v s.fresh
    fresh := s.fresh + 1 }

/-- The acceptance of `v` with the completion due at once, whatever was pending before (log entry 1). -/
def State.placeCommand (v : Word32) (s : State) : State :=
  { s with pend := v, busy := true, done := false, delay := 0 }

/-- The STATUS writes of every completion: ERR, DONE and BUSY (R132, R28, R29, R25). With an error code this is the whole
effect of the command (R136). -/
def State.complete (e : ErrCode) (s : State) : State :=
  { s with err := e, done := true, busy := false }

/-- The completion of a command whose Execute answered `r`: on success the command's writes `s'` and code 0, on an error
nothing but the code (R132, R136, R137). -/
def finish (s : State) (r : Except ErrCode State) : Host.Outcome State Fault Refusal :=
  match r with
  | .ok s' => .next (s'.complete .ok)
  | .error e => .next (s.complete e)

/-- The command pending at its completion, if its word is legal (R134). -/
def State.fetch (s : State) : Except DecodeError Instr := decode s.pend

/-- 512 unspecified entries (R48). -/
def unspecifiedS (n : Nat) : List Word128 := (List.range Config.tMax).map (Config.freeS n)

/-- 255 unspecified entries (R49). -/
def unspecifiedL (n : Nat) : List Word128 := (List.range Config.cMax).map (Config.freeL n)

/-- A reset of the hardware (R270): every register to its reset value, S and L unspecified, a pending command discarded. The
host's side of the bus is not part of the hardware and keeps its place. -/
def State.hardReset (s : State) : State :=
  { State.reset with
    S := unspecifiedS s.fresh
    L := unspecifiedL s.fresh
    host := s.host
    reads := s.reads
    fresh := s.fresh + 1 }

/-- A host write of `v` to CTRL (R33): with SRST = 1 the soft reset of R272 and nothing else, otherwise IE <- v[0]. -/
def State.writeCtrl (v : Word32) (s : State) : State :=
  if v.getLsbD 1 then s.hardReset else { s with ie := v.getLsbD 0 }

/-- An access error (R79, R31). -/
def State.accessError (s : State) : State := { s with busErr := true }

/-- A write dropped because the engine is busy (R280, R30). -/
def State.dropWrite (s : State) : State := { s with ovr := true }

/-- `v` returned to the host by a read (R72, R288). -/
def State.returnData (v : Word32) (s : State) : State := { s with reads := v :: s.reads }

end Sys2Proof.Machine
end

