-- ==== Sys2Proof/Machine/Operands.lean ====
section
/-! DEFINITION. Where a command's operands come from: the second operand and the width check of the word unit
(spec 30_encoding.md rule R104, 41_word_unit.md rule R155), the active configuration (10_state.md rule R55), the checked key
expansion and the cached table (42_engine_setup.md rule R184, 43_block_cipher.md rule R215), and the block (R210, R211). -/

namespace Sys2Proof.Machine

/-- V2 (R104): x[WY], or the zero-extended immediate. -/
def State.operand2 (s : State) : Operand2 → Word128
  | .wy => s.wy
  | .imm v => BitVec.ofNat 128 v

/-- A register value used as a word of width `w`: WIDTH_ERROR unless it is below 2^w (R155). -/
def checkWord (w : Width) (x : Word128) : Except ErrCode (Word (widthBits w)) :=
  if x.toNat < 2 ^ widthBits w then .ok (trunc _ x) else .error .widthError

/-- A binary word-unit command on two words, WX checked before V2 (R154, R155, R244). -/
def wordBinary (w : Width) (v2 : Operand2) (f : Word (widthBits w) → Word (widthBits w) → Word (widthBits w))
    (s : State) : Except ErrCode State :=
  match checkWord w s.wx with
  | .error e => .error e
  | .ok x =>
    match checkWord w (s.operand2 v2) with
    | .error e => .error e
    | .ok y => .ok (s.setWz (f x y))

/-- A rotate: WX is a word, V2 an amount that is never checked (R154, R155). -/
def wordRotate (w : Width) (v2 : Operand2) (f : Word (widthBits w) → Nat → Word (widthBits w))
    (s : State) : Except ErrCode State :=
  match checkWord w s.wx with
  | .error e => .error e
  | .ok x => .ok (s.setWz (f x (s.operand2 v2).toNat))

/-- WIDTH(x[CFG].WS) (R35). -/
def Cfg.width? (c : Cfg) : Option Width := Width.ofCode c.ws.toNat

/-- The checks of CONFIGURE (R183). -/
def State.configLegal (s : State) : Bool :=
  match s.cfg.width? with
  | none => false
  | some w =>
    s.cfg.rounds != 0 && s.cfg.keyBytes != 0 &&
      (!s.cfg.pqovr || (decide (s.pOvr.toNat < 2 ^ widthBits w) && decide (s.qOvr.toNat < 2 ^ widthBits w)))

/-- The active configuration (R55). -/
structure Active where
  /-- The width. -/
  w : Width
  /-- r, the rounds. -/
  r : Nat
  /-- b, the key bytes. -/
  b : Nat
  /-- The magic constant P. -/
  P : Word (widthBits w)
  /-- The magic constant Q. -/
  Q : Word (widthBits w)
  deriving DecidableEq, Repr

/-- t = 2(r+1) (R55). -/
def Active.t (a : Active) : Nat := 2 * (a.r + 1)

/-- u = w/8 (R55). -/
def Active.u (a : Active) : Nat := widthBytes a.w

/-- The active configuration as CFG, P_OVR and Q_OVR give it (R55, R182); none for an unsupported width code. -/
def State.active? (s : State) : Option Active :=
  match s.cfg.width? with
  | none => none
  | some w =>
    some
      { w := w
        r := s.cfg.rounds.toNat
        b := s.cfg.keyBytes.toNat
        P := if s.cfg.pqovr then trunc _ s.pOvr else romP w
        Q := if s.cfg.pqovr then trunc _ s.qOvr else romQ w }

/-- The active configuration, or NOT_CONFIGURED (R241). With CFG_VALID = 1 the width code is supported (R56); the model
answers NOT_CONFIGURED in the states no run reaches where it is not (log entry 8). -/
def State.configured (s : State) : Except ErrCode Active :=
  if s.cfgValid then
    match s.active? with
    | some a => .ok a
    | none => .error .notConfigured
  else .error .notConfigured

/-- The key bytes KEY[0..b-1] (R42, R185). -/
def State.keyBytes (s : State) (b : Nat) : List Byte := s.mem.readBytes 0x100 b

/-- The round-key table of the current key under the configuration `a` (R184, R187). -/
def State.expandedKey (s : State) (a : Active) : List (Word (widthBits a.w)) :=
  keyExpand (s.keyBytes a.b) a.r a.P a.Q

/-- ExpandChecked after its configuration check (R184). -/
def State.expandChecked (s : State) (a : Active) : Except ErrCode (List (Word (widthBits a.w))) :=
  if s.klen.toNat = a.b then .ok (s.expandedKey a) else .error .keyLengthError

/-- The low w bits of S[0..t-1] (R48). -/
def State.cachedKey (s : State) (a : Active) : List (Word (widthBits a.w)) :=
  (s.S.take a.t).map (trunc (widthBits a.w))

/-- RoundKeys (R215): the cached table when KEY_VALID = 1, else a checked expansion. -/
def State.roundKeys (s : State) (a : Active) : Except ErrCode (List (Word (widthBits a.w))) :=
  if s.keyValid then .ok (s.cachedKey a) else s.expandChecked a

/-- `S[0..t-1] <- T` and KEY_VALID <- 1 after an expansion (R190, R216). L was the expansion's scratch: its contents are
unspecified afterwards (R49; log entry 4). -/
def State.fillTable {w : Nat} (T : List (Word w)) (s : State) : State :=
  { s with
    S := T.map zext128 ++ s.S.drop T.length
    keyValid := true
    L := unspecifiedL s.fresh
    fresh := s.fresh + 1 }

/-- The input block (A_in, B_in) (R210). -/
def State.blockIn (s : State) (w : Width) : Word (widthBits w) × Word (widthBits w) :=
  (BitVec.ofNat _ (leValue (s.mem.readBytes 0x040 (widthBytes w))),
   BitVec.ofNat _ (leValue (s.mem.readBytes (0x040 + widthBytes w) (widthBytes w))))

/-- The 32 bytes that an output block puts into BOUT (R211). -/
def blockBytes (w : Width) (x : Word (widthBits w) × Word (widthBits w)) : List Byte :=
  leBytes (widthBytes w) x.1.toNat ++ leBytes (widthBytes w) x.2.toNat
    ++ zeroBytes (32 - 2 * widthBytes w)

/-- `BOUT <- toLE_u(A) ++ toLE_u(B) ++ zeros` (R211). -/
def State.setBout (w : Width) (x : Word (widthBits w) × Word (widthBits w)) (s : State) : State :=
  { s with mem := s.mem.writeBytes 0x060 (blockBytes w x) }

/-- A block command with the transform `f`, in the check order of R244 (R216, R217). -/
def blockCommand (f : {w : Nat} → List (Word w) → Nat → Word w × Word w → Word w × Word w) (len : Nat)
    (s : State) : Except ErrCode State :=
  match s.configured with
  | .error e => .error e
  | .ok a =>
    match s.roundKeys a with
    | .error e => .error e
    | .ok T =>
      if len = 2 * a.u then
        let s' := s.setBout a.w (f T a.r (s.blockIn a.w))
        .ok (if s.keyValid then s' else s'.fillTable T)
      else .error .bufferBoundsError

end Sys2Proof.Machine
end

