-- ==== Sys2Proof/Machine/Block.lean ====
section
/-! DEFINITION. The block commands ENCRYPT and DECRYPT (spec 43_block_cipher.md rules R216, R217). -/

namespace Sys2Proof.Machine

/-- ENCRYPT (R216). -/
def execEncrypt (len : Nat) (s : State) : Host.Outcome State Fault Refusal :=
  finish s (blockCommand encryptWords len s)

/-- DECRYPT (R217). -/
def execDecrypt (len : Nat) (s : State) : Host.Outcome State Fault Refusal :=
  finish s (blockCommand decryptWords len s)

end Sys2Proof.Machine
end

