-- ==== Sys2Proof/Machine/Control.lean ====
section
/-! DEFINITION. The control command NOP (spec 40_command_execution.md rule R140). -/

namespace Sys2Proof.Machine

/-- NOP (R140): no write of its own. -/
def execNop (s : State) : Host.Outcome State Fault Refusal := finish s (.ok s)

end Sys2Proof.Machine
end

