-- ==== Sys2Proof/Machine/Setup.lean ====
section
/-! DEFINITION. The engine setup commands CONFIGURE, KEYEXP and KEYCLR (spec 42_engine_setup.md rules R183, R190, R192). -/

namespace Sys2Proof.Machine

/-- CONFIGURE (R183). -/
def execConfigure (s : State) : Host.Outcome State Fault Refusal :=
  finish s (if s.configLegal then .ok { s with cfgValid := true, keyValid := false } else .error .configError)

/-- KEYEXP (R190). -/
def execKeyexp (s : State) : Host.Outcome State Fault Refusal :=
  finish s
    (match s.configured with
     | .error e => .error e
     | .ok a =>
       match s.expandChecked a with
       | .error e => .error e
       | .ok T => .ok (s.fillTable T))

/-- KEY, S and L zeroed and KEY_VALID cleared (R192). -/
def State.clearKey (s : State) : State :=
  { s with
    mem := s.mem.writeBytes 0x100 (zeroBytes 256)
    S := List.replicate Config.tMax 0
    L := List.replicate Config.cMax 0
    keyValid := false }

/-- KEYCLR (R192). -/
def execKeyclr (s : State) : Host.Outcome State Fault Refusal := finish s (.ok s.clearKey)

end Sys2Proof.Machine
end

