-- ==== Sys2Proof/Machine/WordUnit.lean ====
section
/-! DEFINITION. The word-unit commands (spec 41_word_unit.md rules R156 to R163). -/

namespace Sys2Proof.Machine

/-- WBUILD (R156): truncation, never a width error. -/
def execWbuild (w : Width) (s : State) : Host.Outcome State Fault Refusal :=
  finish s (.ok (s.setWz (trunc (widthBits w) s.wx)))

/-- WADD (R157). -/
def execWadd (w : Width) (v2 : Operand2) (s : State) : Host.Outcome State Fault Refusal :=
  finish s (wordBinary w v2 addW s)

/-- WSUB (R158). -/
def execWsub (w : Width) (v2 : Operand2) (s : State) : Host.Outcome State Fault Refusal :=
  finish s (wordBinary w v2 subW s)

/-- WROTL (R159). -/
def execWrotl (w : Width) (v2 : Operand2) (s : State) : Host.Outcome State Fault Refusal :=
  finish s (wordRotate w v2 rotl s)

/-- WROTR (R160). -/
def execWrotr (w : Width) (v2 : Operand2) (s : State) : Host.Outcome State Fault Refusal :=
  finish s (wordRotate w v2 rotr s)

/-- WAND (R161). -/
def execWand (w : Width) (v2 : Operand2) (s : State) : Host.Outcome State Fault Refusal :=
  finish s (wordBinary w v2 (fun x y => x &&& y) s)

/-- WOR (R161). -/
def execWor (w : Width) (v2 : Operand2) (s : State) : Host.Outcome State Fault Refusal :=
  finish s (wordBinary w v2 (fun x y => x ||| y) s)

/-- WXOR (R161). -/
def execWxor (w : Width) (v2 : Operand2) (s : State) : Host.Outcome State Fault Refusal :=
  finish s (wordBinary w v2 (fun x y => x ^^^ y) s)

/-- WEQ (R163): 1 if the two words are equal, else 0. -/
def execWeq (w : Width) (v2 : Operand2) (s : State) : Host.Outcome State Fault Refusal :=
  finish s (wordBinary w v2 (fun x y => if x = y then 1 else 0) s)

end Sys2Proof.Machine
end

