-- ==== Sys2Proof/Machine/Dispatch.lean ====
section
/-! DEFINITION. Execute and the completion of a legal command: one arm for each row of the opcode map
(spec 40_command_execution.md rules R132, R134). -/

namespace Sys2Proof.Machine

/-- The completion step of command `i` in state `s` (R132, R134). -/
def exec (i : Instr) (s : State) : Host.Outcome State Fault Refusal :=
  match i with
  | .nop => Sys2Proof.Machine.execNop s
  | .configure => Sys2Proof.Machine.execConfigure s
  | .keyexp => Sys2Proof.Machine.execKeyexp s
  | .encrypt len => Sys2Proof.Machine.execEncrypt len s
  | .decrypt len => Sys2Proof.Machine.execDecrypt len s
  | .keyclr => Sys2Proof.Machine.execKeyclr s
  | .wbuild w => Sys2Proof.Machine.execWbuild w s
  | .wadd w v2 => Sys2Proof.Machine.execWadd w v2 s
  | .wsub w v2 => Sys2Proof.Machine.execWsub w v2 s
  | .wrotl w v2 => Sys2Proof.Machine.execWrotl w v2 s
  | .wrotr w v2 => Sys2Proof.Machine.execWrotr w v2 s
  | .wand w v2 => Sys2Proof.Machine.execWand w v2 s
  | .wor w v2 => Sys2Proof.Machine.execWor w v2 s
  | .wxor w v2 => Sys2Proof.Machine.execWxor w v2 s
  | .weq w v2 => Sys2Proof.Machine.execWeq w v2 s

end Sys2Proof.Machine
end

