-- ==== Sys2Proof/Machine/Window.lean ====
section
/-! DEFINITION. The register window and the host's accesses to it (spec 20_memory.md rules R70 to R82, 10_state.md rules R22 to
R46, 70_reset_and_hazards.md rules R272, R280). -/

namespace Sys2Proof.Machine

/-- The registers of the window (R75). -/
inductive WindowReg where
  | id
  | cmd
  | status
  | ctrl
  | cfg
  | klen
  | pOvr
  | qOvr
  | bin
  | bout
  | wx
  | wy
  | wz
  | key
  deriving DecidableEq, Repr

/-- A row of the register map: `size` bytes from offset `lo`. -/
structure MapRow where
  /-- The first offset. -/
  lo : Nat
  /-- The number of bytes. -/
  size : Nat
  /-- The register. -/
  reg : WindowReg
  deriving DecidableEq, Repr

/-- The register map (R75). An offset in no row is reserved. -/
def registerMap : List MapRow :=
  [⟨0x000, 4, .id⟩, ⟨0x004, 4, .cmd⟩, ⟨0x008, 4, .status⟩, ⟨0x00C, 4, .ctrl⟩, ⟨0x010, 4, .cfg⟩,
   ⟨0x014, 4, .klen⟩, ⟨0x020, 16, .pOvr⟩, ⟨0x030, 16, .qOvr⟩, ⟨0x040, 32, .bin⟩, ⟨0x060, 32, .bout⟩,
   ⟨0x080, 16, .wx⟩, ⟨0x090, 16, .wy⟩, ⟨0x0A0, 16, .wz⟩, ⟨0x100, 256, .key⟩]

/-- The register at offset `o`, none where the offset is reserved (R75). -/
def registerAt (o : Nat) : Option WindowReg :=
  (registerMap.find? (fun r => decide (r.lo ≤ o) && decide (o < r.lo + r.size))).map (·.reg)

/-- The ID register's value (R2, R22). -/
def idValue : Word32 := 0x52433501

/-- The offset of a platform address inside the window (R70). -/
def offsetOf (addr : Nat) : Option Nat :=
  if Config.base ≤ addr ∧ addr < Config.base + Config.windowSize then some (addr - Config.base) else none

/-- Whether a read at offset `o` is an access error: misaligned or reserved (R78, R79). -/
def readError (o : Nat) : Bool := o % 4 != 0 || (registerAt o).isNone

/-- Whether a write at offset `o` is an access error: misaligned, reserved, or to ID, BOUT or WZ (R79). -/
def writeError (o : Nat) : Bool :=
  readError o || registerAt o == some .id || registerAt o == some .bout || registerAt o == some .wz

/-- The 32-bit value that a host reads at an offset that is no access error (R72). -/
def State.windowWord (s : State) (o : Nat) : Word32 :=
  match registerAt o with
  | none => 0
  | some .id => idValue
  | some .cmd => 0
  | some .status => s.statusWord
  | some .ctrl => s.ctrlWord
  | some .cfg => s.cfg.word
  | some .klen => s.klenWord
  | some .pOvr => s.mem.readWord o
  | some .qOvr => s.mem.readWord o
  | some .bin => s.mem.readWord o
  | some .bout => s.mem.readWord o
  | some .wx => s.mem.readWord o
  | some .wy => s.mem.readWord o
  | some .wz => s.mem.readWord o
  | some .key => 0

/-- `MemRead(BASE + o, 4)` (R72): the value goes to the host; an access error reads 0 and sets BUSERR. -/
def hostRead (o : Nat) (s : State) : State :=
  if readError o then (s.returnData 0).accessError else s.returnData (s.windowWord o)

/-- CFG <- v, CFG_VALID <- 0, KEY_VALID <- 0 (R39). -/
def State.writeCfg (v : Word32) (s : State) : State :=
  { s with cfg := cfgOfWord v, cfgValid := false, keyValid := false }

/-- KLEN <- v[7:0], KEY_VALID <- 0 (R40). -/
def State.writeKlen (v : Word32) (s : State) : State :=
  { s with klen := v.extractLsb' 0 8, keyValid := false }

/-- Four bytes of P_OVR or Q_OVR, CFG_VALID <- 0, KEY_VALID <- 0 (R41). -/
def State.writeOverride (o : Nat) (v : Word32) (s : State) : State :=
  { s with mem := s.mem.writeWord o v, cfgValid := false, keyValid := false }

/-- Four bytes of KEY, KEY_VALID <- 0 (R42). -/
def State.writeKey (o : Nat) (v : Word32) (s : State) : State :=
  { s with mem := s.mem.writeWord o v, keyValid := false }

/-- Four bytes of BIN, WX or WY, with no side effect (R43, R45). -/
def State.writeData (o : Nat) (v : Word32) (s : State) : State :=
  { s with mem := s.mem.writeWord o v }

/-- The effect of an accepted write of `v` to register `r` at offset `o` by an idle engine (R73). ID, BOUT and WZ are not
writable: `hostWrite` never comes here with them. -/
def State.writeRegister (r : WindowReg) (o : Nat) (v : Word32) (s : State) : State :=
  match r with
  | .id => s
  | .cmd => s.accept v
  | .status => s.writeStatus v
  | .ctrl => s.writeCtrl v
  | .cfg => s.writeCfg v
  | .klen => s.writeKlen v
  | .pOvr => s.writeOverride o v
  | .qOvr => s.writeOverride o v
  | .bin => s.writeData o v
  | .bout => s
  | .wx => s.writeData o v
  | .wy => s.writeData o v
  | .wz => s
  | .key => s.writeKey o v

/-- `MemWrite(BASE + o, 4, v)` (R73): an access error first (R245), then the busy check, which spares STATUS and CTRL
(R280), then the register's rule. -/
def hostWrite (o : Nat) (v : Word32) (s : State) : State :=
  if writeError o then s.accessError
  else
    match registerAt o with
    | none => s
    | some r => if s.busy && r != .status && r != .ctrl then s.dropWrite else s.writeRegister r o v

end Sys2Proof.Machine
end

