-- ==== Sys2Proof/Machine/HostPort.lean ====
section
/-! DEFINITION. The two agents' turns (spec 10_state.md rule R20, 20_memory.md rules R81, R82, 40_command_execution.md rules
R132, R133) and the host syntax of 30_encoding.md rule R112. -/

namespace Sys2Proof.Machine

/-- Whether the next event is the completion of the pending command: it is enabled exactly while BUSY (R132), falls after
`delay` more host accesses, and is not postponed when the host has no access to make (R133, R141; log entry 2). -/
def State.completionDue (s : State) : Bool := s.busy && (s.delay == 0 || s.host.isEmpty)

/-- One host operation. An address outside the window belongs to the platform (R79, U10). -/
def perform (op : HostOp) (s : State) : Host.Outcome State Fault Refusal :=
  match op with
  | .read addr =>
    match offsetOf addr with
    | some o => .next (hostRead o s)
    | none => .refused .outsideWindow
  | .write addr v =>
    match offsetOf addr with
    | some o => .next (hostWrite o v s)
    | none => .refused .outsideWindow
  | .wait =>
    let s' := hostRead 0x008 s
    .next (if s.busy then { s' with host := .wait :: s'.host } else s')
  | .reset => .next s.hardReset

/-- The host's turn: its next operation, if it has one; without one the engine keeps every register (R260). -/
def hostTurn (s : State) : Host.Outcome State Fault Refusal :=
  match s.host with
  | [] => .next s
  | op :: rest => perform op { s with host := rest, delay := s.delay - 1 }

/-- `wr <off>, <v32>` (R112). -/
def wr (o : Nat) (v : Word32) : List HostOp := [.write (Config.base + o) v]

/-- `rd <off>` (R112). -/
def rd (o : Nat) : List HostOp := [.read (Config.base + o)]

/-- `cmd <mnemonic ...>` (R112). -/
def cmd (i : Instr) : List HostOp := wr 0x004 (encode i)

/-- `run <mnemonic ...>` (R112). -/
def runCommand (i : Instr) : List HostOp := cmd i ++ [.wait]

/-- `wrbytes <off>, b0 b1 ...` (R112): whole 32-bit words, missing bytes 0. -/
def wrbytes (o : Nat) : List Byte → List HostOp
  | [] => []
  | [b0] => wr o (BitVec.ofNat 32 (leValue [b0]))
  | [b0, b1] => wr o (BitVec.ofNat 32 (leValue [b0, b1]))
  | [b0, b1, b2] => wr o (BitVec.ofNat 32 (leValue [b0, b1, b2]))
  | b0 :: b1 :: b2 :: b3 :: bs => wr o (BitVec.ofNat 32 (leValue [b0, b1, b2, b3])) ++ wrbytes (o + 4) bs

/-- The reads of `rdbytes <off>, n`: `ceil(n/4)` words from `o` (R112). -/
def rdbytes (o n : Nat) : List HostOp := (List.range ((n + 3) / 4)).flatMap (fun m => rd (o + 4 * m))

end Sys2Proof.Machine
end

