-- ==== Sys2Proof/Machine/Step.lean ====
section
/-! DEFINITION. One event of the total order of accesses and completions (spec 20_memory.md rule R82): the completion of the
pending command (40_command_execution.md rules R132, R134) or the host's next access. The engine has no program counter
(10_state.md rule R21): the "next instruction" is the command word in PEND. -/

namespace Sys2Proof.Machine

/-- One step of the machine. An illegal word completes with ILLEGAL_COMMAND and no other effect (R134). -/
def step (s : State) : Host.Outcome State Fault Refusal :=
  if s.completionDue then
    match s.fetch with
    | .ok i => exec i s
    | .error _ => .next (s.complete .illegalCommand)
  else hostTurn s

/-- `s` with the opcode table's word `w` of `nbits` bits accepted as the pending command, its completion due at once: what a
host write of that word to CMD leads to (R130; log entry 1). -/
def State.withFetchWord (s : State) (nbits w : Nat) : State := s.placeCommand (tableWord nbits w)

end Sys2Proof.Machine
end

