-- ==== Sys2Proof/Safety.lean ====
section
/-! DEFINITION. The terms the statements are made of: the invariants of the engine (spec 10_state.md rules R27, R48, R49, R56,
20_memory.md rule R75), what a completion and a host access leave unchanged (40_command_execution.md rules R136, R137), and the
command families. -/

namespace Sys2Proof.Machine

/-! ### Invariants -/

/-- The offsets at which the window stores a byte: P_OVR to WZ, and KEY (R75). -/
def isStorage (o : Nat) : Bool := (decide (0x020 ≤ o) && decide (o < 0x0B0)) || (decide (0x100 ≤ o) && decide (o < 0x200))

/-- The byte storage has its canonical form and lists only bytes that exist (R75). -/
def State.MemoryCanonical (s : State) : Prop := s.mem.wf ∧ ∀ c ∈ s.mem, isStorage c.1 = true

/-- S has 512 entries and L has 255 (R48, R49). -/
def State.TablesSized (s : State) : Prop := s.S.length = Config.tMax ∧ s.L.length = Config.cMax

/-- DONE is 0 while a command is pending (R28, R130). -/
def State.BusyNotDone (s : State) : Prop := s.busy = true → s.done = false

/-- The two invariants of R56: KEY_VALID implies CFG_VALID, and CFG_VALID implies that CFG, P_OVR and Q_OVR pass every check
of CONFIGURE. -/
def State.ConfigConsistent (s : State) : Prop :=
  (s.keyValid = true → s.cfgValid = true) ∧ (s.cfgValid = true → s.configLegal = true)

/-- While KEY_VALID = 1, KLEN is the configured length and S[0..t-1] is KeyExpand of the current key under the active
configuration (R27, R215). -/
def State.CacheFresh (s : State) : Prop :=
  s.keyValid = true → ∃ a, s.active? = some a ∧ s.klen.toNat = a.b ∧ s.S.take a.t = (s.expandedKey a).map zext128

/-- All the invariants together. -/
structure State.Inv (s : State) : Prop where
  /-- The byte storage is canonical. -/
  memory : s.MemoryCanonical
  /-- The tables have their sizes. -/
  tables : s.TablesSized
  /-- BUSY and DONE exclude each other. -/
  lifecycle : s.BusyNotDone
  /-- R56. -/
  config : s.ConfigConsistent
  /-- R27. -/
  cache : s.CacheFresh

/-! ### Frames -/

/-- Everything that no command writes: OVR, BUSERR, IE, CFG, KLEN, PEND and the host's side of the bus. -/
def KeepsInputs (s t : State) : Prop :=
  t.ovr = s.ovr ∧ t.busErr = s.busErr ∧ t.ie = s.ie ∧ t.cfg = s.cfg ∧ t.klen = s.klen ∧ t.pend = s.pend ∧
    t.host = s.host ∧ t.reads = s.reads ∧ t.delay = s.delay

/-- The engine's own state: CFG_VALID, KEY_VALID, S, L and the free-value counter. -/
def KeepsEngine (s t : State) : Prop :=
  t.cfgValid = s.cfgValid ∧ t.keyValid = s.keyValid ∧ t.S = s.S ∧ t.L = s.L ∧ t.fresh = s.fresh

/-- Every stored byte but the `n` bytes from offset `lo` on. -/
def KeepsBytesOutside (lo n : Nat) (s t : State) : Prop :=
  ∀ o, ¬(lo ≤ o ∧ o < lo + n) → t.mem.read o = s.mem.read o

/-- Every stored byte. -/
def KeepsBytes (s t : State) : Prop := ∀ o, t.mem.read o = s.mem.read o

/-- The bytes that commands read and do not write: P_OVR, Q_OVR, BIN, WX and WY (R41, R43, R45). -/
def KeepsOperandBytes (s t : State) : Prop :=
  ∀ o, (0x020 ≤ o ∧ o < 0x060) ∨ (0x080 ≤ o ∧ o < 0x0A0) → t.mem.read o = s.mem.read o

/-- The STATUS bits a completion with code `e` leaves (R132). -/
def Completes (e : ErrCode) (t : State) : Prop := t.err = e ∧ t.done = true ∧ t.busy = false

/-- `t` is `s` after a successful word-unit command with result `z`: WZ is `z`, and nothing else but ERR, DONE and BUSY is
written (R137, R154). -/
def WordResult (s t : State) (z : Nat) : Prop :=
  t.wz.toNat = z ∧ Completes .ok t ∧ KeepsInputs s t ∧ KeepsEngine s t ∧ KeepsBytesOutside 0x0A0 16 s t

/-- `t` is `s` after a command that ended with the error `e`: nothing but ERR, DONE and BUSY is written (R136). -/
def FailsWith (s t : State) (e : ErrCode) : Prop :=
  Completes e t ∧ KeepsInputs s t ∧ KeepsEngine s t ∧ t.mem = s.mem

/-- What a host access leaves unchanged in the engine's own state: everything but the STATUS bits OVR and BUSERR, and the
host's side of the bus. -/
def KeepsHardware (s t : State) : Prop :=
  t.busy = s.busy ∧ t.cfgValid = s.cfgValid ∧ t.keyValid = s.keyValid ∧ t.done = s.done ∧ t.err = s.err ∧ t.ie = s.ie ∧
    t.cfg = s.cfg ∧ t.klen = s.klen ∧ t.mem = s.mem ∧ t.S = s.S ∧ t.L = s.L ∧ t.pend = s.pend ∧ t.fresh = s.fresh

/-! ### Families and operands -/

/-- The word-unit commands (R12, R102). -/
def isWordUnit : Instr → Bool
  | .nop | .configure | .keyexp | .encrypt _ | .decrypt _ | .keyclr => false
  | .wbuild _ | .wadd _ _ | .wsub _ _ | .wrotl _ _ | .wrotr _ _ | .wand _ _ | .wor _ _ | .wxor _ _ | .weq _ _ => true

/-- The block commands. -/
def isBlock : Instr → Bool
  | .encrypt _ | .decrypt _ => true
  | .nop | .configure | .keyexp | .keyclr | .wbuild _ | .wadd _ _ | .wsub _ _ | .wrotl _ _ | .wrotr _ _ | .wand _ _
  | .wor _ _ | .wxor _ _ | .weq _ _ => false

/-- The width of a word-unit command. -/
def wordWidth : Instr → Option Width
  | .nop | .configure | .keyexp | .encrypt _ | .decrypt _ | .keyclr => none
  | .wbuild w | .wadd w _ | .wsub w _ | .wrotl w _ | .wrotr w _ | .wand w _ | .wor w _ | .wxor w _ | .weq w _ => some w

/-- The number that V2 is: x[WY] or the immediate (R104). -/
def v2Value (s : State) : Operand2 → Nat
  | .wy => s.wy.toNat
  | .imm v => v

/-- The checks of CONFIGURE, in the numbers of R183. -/
def ConfigAccepted (s : State) : Prop :=
  ∃ w, Width.ofCode s.cfg.ws.toNat = some w ∧ s.cfg.rounds.toNat ≠ 0 ∧ s.cfg.keyBytes.toNat ≠ 0 ∧
    (s.cfg.pqovr = true → s.pOvr.toNat < 2 ^ widthBits w ∧ s.qOvr.toNat < 2 ^ widthBits w)

/-- `a` is the active configuration of R55, in numbers: width, rounds and key bytes from CFG; the built-in constants with
PQOVR = 0, and with PQOVR = 1 the overrides (R38, R182), each a w-bit word wherever CONFIGURE accepted it. -/
def State.ActiveNumbers (s : State) (a : Active) : Prop :=
  widthBits a.w = 8 * 2 ^ s.cfg.ws.toNat ∧ a.u = 2 ^ s.cfg.ws.toNat ∧ a.r = s.cfg.rounds.toNat ∧
    a.b = s.cfg.keyBytes.toNat ∧ a.t = 2 * (s.cfg.rounds.toNat + 1) ∧
    (s.cfg.pqovr = false → a.P.toNat = romPValue a.w ∧ a.Q.toNat = romQValue a.w) ∧
    (s.cfg.pqovr = true → s.pOvr.toNat < 2 ^ widthBits a.w → a.P.toNat = s.pOvr.toNat) ∧
    (s.cfg.pqovr = true → s.qOvr.toNat < 2 ^ widthBits a.w → a.Q.toNat = s.qOvr.toNat)

/-- The engine can transform a block of `len` bytes under the configuration `a`: it is configured, the key length is right
and the cached table, if valid, is that of the current key (R216, R244). -/
def BlockReady (s : State) (a : Active) (len : Nat) : Prop :=
  s.cfgValid = true ∧ s.active? = some a ∧ s.klen.toNat = a.b ∧ s.CacheFresh ∧ len = 2 * a.u

/-- The host copies the first `n` bytes of BOUT into BIN. -/
def State.copyBoutToBin (s : State) (n : Nat) : State :=
  { s with mem := s.mem.writeBytes 0x040 (s.mem.readBytes 0x060 n) }

/-! ### The cipher in numbers -/

/-- `rotl_w(x, n)` of R152 on numbers. -/
def rotlNat (w x n : Nat) : Nat :=
  if n % w = 0 then x else (x * 2 ^ (n % w) % 2 ^ w) ||| (x / 2 ^ (w - n % w))

/-- `rotr_w(x, n)` of R153 on numbers. -/
def rotrNat (w x n : Nat) : Nat :=
  if n % w = 0 then x else (x / 2 ^ (n % w)) ||| (x * 2 ^ (w - n % w) % 2 ^ w)

/-- `m'` is `m` after one pass of the loop of R187, step 3, with t and c entries. In the L line A is the value just
assigned. -/
def MixPass {w : Nat} (t c : Nat) (m m' : Mix w) : Prop :=
  m'.A.toNat = rotlNat w (((m.S.getD m.i 0).toNat + m.A.toNat + m.B.toNat) % 2 ^ w) 3 ∧
    m'.B.toNat =
      rotlNat w (((m.L.getD m.j 0).toNat + m'.A.toNat + m.B.toNat) % 2 ^ w) ((m'.A.toNat + m.B.toNat) % 2 ^ w) ∧
    m'.S = m.S.set m.i m'.A ∧ m'.L = m.L.set m.j m'.B ∧ m'.i = (m.i + 1) % t ∧ m'.j = (m.j + 1) % c

/-- `y` is `x` after round `i` of R213. In the second line A is the value just computed. -/
def EncryptRound {w : Nat} (S : List (Word w)) (i : Nat) (x y : Word w × Word w) : Prop :=
  y.1.toNat = (rotlNat w (x.1.toNat ^^^ x.2.toNat) x.2.toNat + (S.getD (2 * i) 0).toNat) % 2 ^ w ∧
    y.2.toNat = (rotlNat w (x.2.toNat ^^^ y.1.toNat) y.1.toNat + (S.getD (2 * i + 1) 0).toNat) % 2 ^ w

/-- `y` is `x` after round `i` of R214. In the second line B is the value just computed. -/
def DecryptRound {w : Nat} (S : List (Word w)) (i : Nat) (x y : Word w × Word w) : Prop :=
  y.2.toNat = rotrNat w ((x.2.toNat + 2 ^ w - (S.getD (2 * i + 1) 0).toNat) % 2 ^ w) x.1.toNat ^^^ x.1.toNat ∧
    y.1.toNat = rotrNat w ((x.1.toNat + 2 ^ w - (S.getD (2 * i) 0).toNat) % 2 ^ w) y.2.toNat ^^^ y.2.toNat

/-! ### The host's accesses -/

/-- The reserved offsets of the window (R75). -/
def isReserved (o : Nat) : Prop := (0x018 ≤ o ∧ o < 0x020) ∨ (0x0B0 ≤ o ∧ o < 0x100) ∨ 0x200 ≤ o

/-- The offsets of ID, BOUT and WZ, which a host cannot write (R75, R79). -/
def isReadOnly (o : Nat) : Prop := o < 0x004 ∨ (0x060 ≤ o ∧ o < 0x080) ∨ (0x0A0 ≤ o ∧ o < 0x0B0)

/-- The next event is the host's read at offset `o`. -/
def HostReads (s : State) (o : Nat) (rest : List HostOp) : Prop :=
  s.completionDue = false ∧ s.host = .read (Config.base + o) :: rest ∧ o < 0x400

/-- The next event is the host's write of `v` at offset `o`. -/
def HostWrites (s : State) (o : Nat) (v : Word32) (rest : List HostOp) : Prop :=
  s.completionDue = false ∧ s.host = .write (Config.base + o) v :: rest ∧ o < 0x400

/-- A write takes its place off the host's list and returns nothing (R288; the list is the model's own, log entry 11). -/
def WriteTaken (s t : State) (rest : List HostOp) : Prop := t.host = rest ∧ t.reads = s.reads

/-- The `4` bytes from offset `o` on are those of `v`, and every other stored byte is as before (R73, R74). -/
def StoresWord (s t : State) (o : Nat) (v : Word32) : Prop :=
  (∀ i, i < 4 → t.mem.read (o + i) = v.extractLsb' (8 * i) 8) ∧ KeepsBytesOutside o 4 s t

/-- The next event is a hardware reset or a soft reset (R270, R272). -/
def ResetNext (s : State) : Prop :=
  s.completionDue = false ∧
    ∃ rest, s.host = .reset :: rest ∨ ∃ v, v.getLsbD 1 = true ∧ s.host = .write (Config.base + 0x00C) v :: rest

/-- The reset values of R270 and R54 that the spec gives. -/
def ResetValues (t : State) : Prop :=
  t.statusWord = 0 ∧ t.ctrlWord = 0 ∧ t.cfg.word = 0 ∧ t.klenWord = 0 ∧ t.pOvr = 0 ∧ t.qOvr = 0 ∧
    (∀ k, k < 256 → t.mem.read (0x100 + k) = 0) ∧ (∀ k, k < 32 → t.mem.read (0x040 + k) = 0) ∧
    (∀ k, k < 32 → t.mem.read (0x060 + k) = 0) ∧ t.wx = 0 ∧ t.wy = 0 ∧ t.wz = 0 ∧ t.irq = false ∧ t.busy = false

/-- The state after `n` steps, if none of them stops. -/
def State.after (s : State) (n : Nat) : Option State :=
  match n with
  | 0 => some s
  | n + 1 =>
    match step s with
    | .next t => t.after n
    | .fault _ => none
    | .refused _ => none

/-- An address of the window (R70). -/
def inWindow (addr : Nat) : Prop := Config.base ≤ addr ∧ addr < Config.base + Config.windowSize

/-- Every access the host still has to make is to the window. -/
def HostOp.InWindow : HostOp → Prop
  | .read addr => inWindow addr
  | .write addr _ => inWindow addr
  | .wait => True
  | .reset => True

end Sys2Proof.Machine
end

