-- ==== Sys2Proof/Certificates/Slice0/Obligations.lean ====
section
/-! DEFINITION. The statements about the model, for the provers. Each docstring names the rules of the spec it comes from. -/

open Sys2Proof Sys2Proof.Machine

/-! ### Encoding (30_encoding.md) -/

/-- No bit of an encoding is dropped: every well-formed command, with every operand its word admits, is read back (R107,
R110). -/
def Obligations.DecodeEncodeRoundTrip : Prop :=
  ∀ i : Instr, i.WellFormed = true → decode (encode i) = .ok i

/-- R110: a legal word names exactly one command, of the row of its OP value, whose encoding is the word itself; every other
word is illegal; and no two commands share a word. `Legal` is R108's text. -/
def Obligations.DecodeFollowsLegality : Prop :=
  (∀ v : Word32,
    (Legal v = true → ∃ i, decode v = .ok i ∧ i.WellFormed = true ∧ i.opcode = slice v 7 0 ∧ encode i = v) ∧
    (Legal v = false → ∃ e, decode v = .error e)) ∧
  ∀ i j : Instr, i.WellFormed = true → j.WellFormed = true → encode i = encode j → i = j

/-- R109, kind by kind; the last clause is "no encodings that execute as a no-op other than NOP itself". -/
def Obligations.ReservedEncodingsRefused : Prop :=
  ∀ v : Word32,
    ((0x06 ≤ slice v 7 0 ∧ slice v 7 0 ≤ 0x0F) ∨ 0x19 ≤ slice v 7 0 → ∃ e, decode v = .error e) ∧
    (slice v 15 12 ≠ 0 ∨ slice v 31 24 ≠ 0 → ∃ e, decode v = .error e) ∧
    (0x10 ≤ slice v 7 0 ∧ slice v 7 0 ≤ 0x18 ∧ 5 ≤ slice v 10 8 → ∃ e, decode v = .error e) ∧
    (slice v 7 0 ≤ 0x05 ∧ (slice v 10 8 ≠ 0 ∨ slice v 11 11 ≠ 0) → ∃ e, decode v = .error e) ∧
    ((slice v 7 0 ≤ 0x02 ∨ slice v 7 0 = 0x05) ∧ slice v 23 16 ≠ 0 → ∃ e, decode v = .error e) ∧
    (slice v 7 0 = 0x10 ∧ (slice v 11 11 ≠ 0 ∨ slice v 23 16 ≠ 0) → ∃ e, decode v = .error e) ∧
    (0x11 ≤ slice v 7 0 ∧ slice v 7 0 ≤ 0x18 ∧ slice v 11 11 = 0 ∧ slice v 23 16 ≠ 0 → ∃ e, decode v = .error e) ∧
    (decode v = .ok .nop ↔ v = 0)

/-- Words the spec writes out (R111, 95_test_vectors.md section 3.8) decode to the commands it names, or are refused where it
calls them illegal. -/
def Obligations.SpecWordsDecode : Prop :=
  decode 0x00000001 = .ok .configure ∧ decode 0x00080003 = .ok (.encrypt 8) ∧ decode 0x00080004 = .ok (.decrypt 8) ∧
    decode 0x00000005 = .ok .keyclr ∧ decode 0x00000112 = .ok (.wsub .w16 .wy) ∧
    decode 0x00FF0913 = .ok (.wrotl .w16 (.imm 255)) ∧ decode 0x00030A11 = .ok (.wadd .w32 (.imm 3)) ∧
    decode 0x00000418 = .ok (.weq .w128 .wy) ∧ ∃ e, decode 0x00000101 = .error e

/-! ### The lifecycle of a command (40_command_execution.md) -/

/-- A completion runs the pending command: `exec` of what PEND decodes to, and for a word that is not legal ILLEGAL_COMMAND (6)
with no other effect (R132, R134, R108). -/
def Obligations.StepRunsPendingCommand : Prop :=
  ∀ s : State, s.completionDue = true →
    (∀ i, decode s.pend = .ok i → step s = exec i s) ∧
    (Legal s.pend = false → ∃ t, step s = .next t ∧ FailsWith s t .illegalCommand)

/-- Every completion, of every command in every state, answers a next state with BUSY = 0, DONE = 1 and a code in ERR, and
leaves every register that commands only read, PEND and the host's side of the bus as they were: OVR, BUSERR, IE, CFG, KLEN,
P_OVR, Q_OVR, BIN, WX, WY, and, but for KEYCLR, KEY (R132, R137). -/
def Obligations.CompletionKeepsInputs : Prop :=
  ∀ (i : Instr) (s : State), ∃ t e, exec i s = .next t ∧ Completes e t ∧ KeepsInputs s t ∧ KeepsOperandBytes s t ∧
    (i ≠ .keyclr → ∀ o, 0x100 ≤ o → o < 0x200 → t.mem.read o = s.mem.read o)

/-- R136: a command that ends with an error writes nothing but ERR, DONE and BUSY; and a CONFIGURE that fails in a state in
which the invariant of R56 holds finds CFG_VALID and KEY_VALID already 0. -/
def Obligations.FailureWritesOnlyTheCode : Prop :=
  ∀ (i : Instr) (s t : State), exec i s = .next t → t.err ≠ .ok →
    FailsWith s t t.err ∧ (i = .configure → s.ConfigConsistent → s.cfgValid = false ∧ s.keyValid = false)

/-- What each family writes at most, whatever its outcome (R137, R154, R183, R190, R192, R216, R217). L and the free-value
counter are the model's own free values where KEYEXP, ENCRYPT or DECRYPT expand a key (log entry 4). -/
def Obligations.CommandFrames : Prop :=
  ∀ (i : Instr) (s t : State), exec i s = .next t →
    (isWordUnit i = true → KeepsEngine s t ∧ KeepsBytesOutside 0x0A0 16 s t) ∧
    (isBlock i = true → t.cfgValid = s.cfgValid ∧ KeepsBytesOutside 0x060 32 s t ∧
      (s.keyValid = true → KeepsEngine s t) ∧ ∀ a, s.active? = some a → t.S.drop a.t = s.S.drop a.t) ∧
    (i = .nop → KeepsEngine s t ∧ KeepsBytes s t) ∧
    (i = .configure → t.S = s.S ∧ t.L = s.L ∧ t.fresh = s.fresh ∧ KeepsBytes s t) ∧
    (i = .keyexp → t.cfgValid = s.cfgValid ∧ KeepsBytes s t ∧
      ∀ a, s.active? = some a → t.S.drop a.t = s.S.drop a.t) ∧
    (i = .keyclr → t.cfgValid = s.cfgValid ∧ t.fresh = s.fresh ∧ KeepsBytesOutside 0x100 256 s t)

/-! ### Word arithmetic (41_word_unit.md section 1) -/

/-- R150, R151: add and subtract modulo 2^w; the difference is the unique word that added to `b` gives `a`. -/
def Obligations.AddSubtractWrap : Prop :=
  ∀ (w : Width) (a b : Word (widthBits w)),
    (addW a b).toNat = (a.toNat + b.toNat) % 2 ^ widthBits w ∧
    (subW a b).toNat = (a.toNat + 2 ^ widthBits w - b.toNat) % 2 ^ widthBits w ∧
    ∀ d : Word (widthBits w), addW d b = a ↔ d = subW a b

/-- R152: the rotate left, for every amount. -/
def Obligations.RotateLeftRule : Prop :=
  ∀ (w : Width) (x : Word (widthBits w)) (n : Nat),
    (rotl x n).toNat =
      if n % widthBits w = 0 then x.toNat
      else (x.toNat * 2 ^ (n % widthBits w) % 2 ^ widthBits w) ||| (x.toNat / 2 ^ (widthBits w - n % widthBits w))

/-- R153: the rotate right, for every amount, and its two laws. -/
def Obligations.RotateRightRule : Prop :=
  ∀ (w : Width) (x : Word (widthBits w)) (n : Nat),
    (rotr x n).toNat =
      (if n % widthBits w = 0 then x.toNat
       else (x.toNat / 2 ^ (n % widthBits w)) ||| (x.toNat * 2 ^ (widthBits w - n % widthBits w) % 2 ^ widthBits w)) ∧
    rotl (rotr x n) n = x ∧ rotr x n = rotl x (widthBits w - n % widthBits w)

/-! ### Word-unit commands (41_word_unit.md section 2) -/

/-- R156: WBUILD of any WX truncates it, with no error. -/
def Obligations.WbuildResult : Prop :=
  ∀ (w : Width) (s : State),
    ∃ t, exec (.wbuild w) s = .next t ∧ WordResult s t (s.wx.toNat % 2 ^ widthBits w)

/-- R157, R158: WADD and WSUB of two w-bit words, in both operand forms. -/
def Obligations.WaddWsubResult : Prop :=
  ∀ (w : Width) (v2 : Operand2) (s : State), v2.WellFormed = true →
    s.wx.toNat < 2 ^ widthBits w → v2Value s v2 < 2 ^ widthBits w →
    (∃ t, exec (.wadd w v2) s = .next t ∧ WordResult s t ((s.wx.toNat + v2Value s v2) % 2 ^ widthBits w)) ∧
    (∃ t, exec (.wsub w v2) s = .next t ∧
      WordResult s t ((s.wx.toNat + 2 ^ widthBits w - v2Value s v2) % 2 ^ widthBits w))

/-- R159, R160: WROTL and WROTR of a w-bit word by any amount, in both operand forms. -/
def Obligations.RotateResults : Prop :=
  ∀ (w : Width) (v2 : Operand2) (s : State), v2.WellFormed = true → s.wx.toNat < 2 ^ widthBits w →
    (∃ t, exec (.wrotl w v2) s = .next t ∧
      WordResult s t
        (if v2Value s v2 % widthBits w = 0 then s.wx.toNat
         else (s.wx.toNat * 2 ^ (v2Value s v2 % widthBits w) % 2 ^ widthBits w) |||
           (s.wx.toNat / 2 ^ (widthBits w - v2Value s v2 % widthBits w)))) ∧
    (∃ t, exec (.wrotr w v2) s = .next t ∧
      WordResult s t
        (if v2Value s v2 % widthBits w = 0 then s.wx.toNat
         else (s.wx.toNat / 2 ^ (v2Value s v2 % widthBits w)) |||
           (s.wx.toNat * 2 ^ (widthBits w - v2Value s v2 % widthBits w) % 2 ^ widthBits w)))

/-- R161: WAND, WOR and WXOR of two w-bit words, in both operand forms. -/
def Obligations.BitwiseResults : Prop :=
  ∀ (w : Width) (v2 : Operand2) (s : State), v2.WellFormed = true →
    s.wx.toNat < 2 ^ widthBits w → v2Value s v2 < 2 ^ widthBits w →
    (∃ t, exec (.wand w v2) s = .next t ∧ WordResult s t (s.wx.toNat &&& v2Value s v2)) ∧
    (∃ t, exec (.wor w v2) s = .next t ∧ WordResult s t (s.wx.toNat ||| v2Value s v2)) ∧
    (∃ t, exec (.wxor w v2) s = .next t ∧ WordResult s t (s.wx.toNat ^^^ v2Value s v2))

/-- R163: WEQ of two w-bit words, in both operand forms. -/
def Obligations.WeqResult : Prop :=
  ∀ (w : Width) (v2 : Operand2) (s : State), v2.WellFormed = true →
    s.wx.toNat < 2 ^ widthBits w → v2Value s v2 < 2 ^ widthBits w →
    ∃ t, exec (.weq w v2) s = .next t ∧ WordResult s t (if s.wx.toNat = v2Value s v2 then 1 else 0)

/-- R155: exactly when each word-unit command ends with WIDTH_ERROR, and that it then writes nothing else. -/
def Obligations.WidthErrorsExactly : Prop :=
  ∀ (w : Width) (v2 : Operand2) (s : State), v2.WellFormed = true →
    (∀ i ∈ [Instr.wadd w v2, .wsub w v2, .wand w v2, .wor w v2, .wxor w v2, .weq w v2],
      (2 ^ widthBits w ≤ s.wx.toNat ∨ 2 ^ widthBits w ≤ v2Value s v2 →
        ∃ t, exec i s = .next t ∧ FailsWith s t .widthError) ∧
      (s.wx.toNat < 2 ^ widthBits w ∧ v2Value s v2 < 2 ^ widthBits w → ∃ t, exec i s = .next t ∧ Completes .ok t)) ∧
    (∀ i ∈ [Instr.wrotl w v2, .wrotr w v2],
      (2 ^ widthBits w ≤ s.wx.toNat → ∃ t, exec i s = .next t ∧ FailsWith s t .widthError) ∧
      (s.wx.toNat < 2 ^ widthBits w → ∃ t, exec i s = .next t ∧ Completes .ok t)) ∧
    (∃ t, exec (.wbuild w) s = .next t ∧ Completes .ok t)

/-- R162: a result of a word-unit command of width w is below 2^w, so that it passes the width check of the same width as WX
or WY. -/
def Obligations.WordResultsFitWidth : Prop :=
  ∀ (i : Instr) (w : Width) (s t : State), wordWidth i = some w → exec i s = .next t → t.err = .ok →
    t.wz.toNat < 2 ^ widthBits w ∧ ∃ x, checkWord w t.wz = .ok x ∧ x.toNat = t.wz.toNat

/-- R154, D34: a word-unit command depends on WX and WY only; configuration, key and STATUS have no influence on its result or
its error. -/
def Obligations.WordUnitIgnoresConfiguration : Prop :=
  ∀ (i : Instr) (s s' : State), isWordUnit i = true → s.wx = s'.wx → s.wy = s'.wy →
    ∃ t t', exec i s = .next t ∧ exec i s' = .next t' ∧ t.err = t'.err ∧ (t.err = .ok → t.wz = t'.wz)

/-! ### Control and engine setup (40_command_execution.md, 42_engine_setup.md) -/

/-- R140: NOP succeeds in every state and writes nothing of its own. -/
def Obligations.NopResult : Prop :=
  ∀ s : State, ∃ t, exec .nop s = .next t ∧ Completes .ok t ∧ KeepsInputs s t ∧ KeepsEngine s t ∧ t.mem = s.mem

/-- R183: CONFIGURE accepts exactly the legal configurations, sets CFG_VALID and clears KEY_VALID, and refuses every other
one with CONFIG_ERROR. -/
def Obligations.ConfigureResult : Prop :=
  ∀ s : State,
    (ConfigAccepted s →
      ∃ t, exec .configure s = .next t ∧ Completes .ok t ∧ t.cfgValid = true ∧ t.keyValid = false ∧ KeepsInputs s t ∧
        t.mem = s.mem ∧ t.S = s.S ∧ t.L = s.L ∧ t.fresh = s.fresh) ∧
    (¬ConfigAccepted s → ∃ t, exec .configure s = .next t ∧ FailsWith s t .configError)

/-- R35, R38, R55, R182: what the active configuration is, and that there is none for an unsupported width code; and R190: KEYEXP
of a configured engine with the right key length puts KeyExpand of the key into S[0..t-1] and sets KEY_VALID. L is a free value
afterwards (log entry 4). -/
def Obligations.KeyexpResult : Prop :=
  (∀ s : State,
    (s.cfg.ws.toNat ≤ 4 → ∃ a, s.active? = some a ∧ s.ActiveNumbers a) ∧ (5 ≤ s.cfg.ws.toNat → s.active? = none)) ∧
  ∀ (s : State) (a : Active), s.cfgValid = true → s.active? = some a → s.klen.toNat = a.b →
    ∃ t, exec .keyexp s = .next t ∧ Completes .ok t ∧ t.keyValid = true ∧ t.cfgValid = true ∧
      t.S = (keyExpand (s.mem.readBytes 0x100 a.b) a.r a.P a.Q).map zext128 ++ s.S.drop a.t ∧
      KeepsInputs s t ∧ t.mem = s.mem

/-- R192: KEYCLR, configured or not, zeroes KEY, S and L and clears KEY_VALID. -/
def Obligations.KeyclrResult : Prop :=
  ∀ s : State, ∃ t, exec .keyclr s = .next t ∧ Completes .ok t ∧ t.keyValid = false ∧ t.cfgValid = s.cfgValid ∧
    (∀ k, k < 256 → t.mem.read (0x100 + k) = 0) ∧ KeepsBytesOutside 0x100 256 s t ∧
    t.S.length = 512 ∧ (∀ x ∈ t.S, x = 0) ∧ t.L.length = 255 ∧ (∀ x ∈ t.L, x = 0) ∧ KeepsInputs s t ∧ t.fresh = s.fresh

/-- R187, R188: the round-key table before mixing, and its first entries at w = 32; one pass of the mixing loop in numbers; and
KeyExpand as `3 * max(t, c)` passes from that table and the key words. -/
def Obligations.SeedTableClosedForm : Prop :=
  (∀ (w : Width) (P Q : Word (widthBits w)) (t i : Nat), i < t →
    (seedTable P Q t).length = t ∧
      (seedTable P Q t).getD i 0 = addW P (BitVec.ofNat (widthBits w) (i * Q.toNat))) ∧
  (seedTable (romP .w32) (romQ .w32) 4).map BitVec.toNat = [0xB7E15163, 0x5618CB1C, 0xF45044D5, 0x9287BE8E] ∧
  (∀ (w : Width) (t c : Nat) (m : Mix (widthBits w)), MixPass t c m (mixStep t c m)) ∧
  ∀ (w : Width) (K : List Byte) (r t c : Nat) (P Q : Word (widthBits w)),
    t = 2 * (r + 1) → c = (K.length + widthBytes w - 1) / widthBytes w →
    keyExpand K r P Q =
      ((mixStep t c)^[3 * max t c]
        { S := seedTable P Q t, L := keyWords (widthBits w) K, A := 0, B := 0, i := 0, j := 0 }).S

/-- R10: the little-endian value of a byte sequence, and the bytes of a number; and R185: the key words are `ceil(b/u)` in
number, and word j is the little-endian value of its u key bytes, a byte at or beyond b counting as 0. -/
def Obligations.KeyWordsClosedForm : Prop :=
  (∀ bs : List Byte, leValue bs = ∑ k ∈ Finset.range bs.length, (bs.getD k 0).toNat * 2 ^ (8 * k)) ∧
  (∀ n v : Nat, (leBytes n v).length = n ∧ ∀ k, k < n → ((leBytes n v).getD k 0).toNat = v / 2 ^ (8 * k) % 2 ^ 8) ∧
  ∀ (w : Width) (K : List Byte),
    (keyWords (widthBits w) K).length = (K.length + widthBytes w - 1) / widthBytes w ∧
    ∀ j, j < (K.length + widthBytes w - 1) / widthBytes w →
      ((keyWords (widthBits w) K).getD j 0).toNat = leValue ((K.drop (j * widthBytes w)).take (widthBytes w))

/-- R191: the sizes of the key schedule under every legal configuration. -/
def Obligations.ScheduleSizes : Prop :=
  ∀ (s : State) (a : Active), s.configLegal = true → s.active? = some a →
    4 ≤ a.t ∧ a.t ≤ 512 ∧ 1 ≤ ceilDiv a.b a.u ∧ ceilDiv a.b a.u ≤ 255 ∧
    (ceilDiv a.b a.u = 255 → a.w = .w8 ∧ a.b = 255) ∧
    12 ≤ 3 * max a.t (ceilDiv a.b a.u) ∧ 3 * max a.t (ceilDiv a.b a.u) ≤ 1536 ∧ (s.expandedKey a).length = a.t

/-- R181 for P: the built-in constant is `floor((e - 2) * 2^w) or 1`. -/
def Obligations.RomPFromE : Prop :=
  ∀ w : Width, romPValue w = ⌊(Real.exp 1 - 2) * 2 ^ widthBits w⌋₊ ||| 1

/-- R181 for Q: the built-in constant is `floor((φ - 1) * 2^w) or 1`, with φ = (1 + sqrt 5) / 2. -/
def Obligations.RomQFromGoldenRatio : Prop :=
  ∀ w : Width, romQValue w = ⌊((1 + Real.sqrt 5) / 2 - 1) * 2 ^ widthBits w⌋₊ ||| 1

/-! ### The block cipher (43_block_cipher.md) -/

/-- R216, R210, R211: ENCRYPT of a ready engine puts EncryptWords of the block, under the expanded key, into BOUT and zeros
behind it, whether or not the table was cached (R215). `a` is the active configuration of R55, in numbers. -/
def Obligations.EncryptResult : Prop :=
  ∀ (s : State) (a : Active) (len : Nat), BlockReady s a len →
    s.ActiveNumbers a ∧ ∃ t y, exec (.encrypt len) s = .next t ∧
      y = encryptWords (keyExpand (s.mem.readBytes 0x100 a.b) a.r a.P a.Q) a.r
        (BitVec.ofNat _ (leValue (s.mem.readBytes 0x040 a.u)),
         BitVec.ofNat _ (leValue (s.mem.readBytes (0x040 + a.u) a.u))) ∧
      t.mem.readBytes 0x060 32 = leBytes a.u y.1.toNat ++ leBytes a.u y.2.toNat ++ zeroBytes (32 - 2 * a.u) ∧
      KeepsBytesOutside 0x060 32 s t ∧ Completes .ok t ∧ KeepsInputs s t ∧ t.cfgValid = true ∧ t.keyValid = true ∧
      t.S.take a.t = (keyExpand (s.mem.readBytes 0x100 a.b) a.r a.P a.Q).map zext128 ∧ t.S.drop a.t = s.S.drop a.t

/-- R217: DECRYPT likewise, with DecryptWords. -/
def Obligations.DecryptResult : Prop :=
  ∀ (s : State) (a : Active) (len : Nat), BlockReady s a len →
    s.ActiveNumbers a ∧ ∃ t y, exec (.decrypt len) s = .next t ∧
      y = decryptWords (keyExpand (s.mem.readBytes 0x100 a.b) a.r a.P a.Q) a.r
        (BitVec.ofNat _ (leValue (s.mem.readBytes 0x040 a.u)),
         BitVec.ofNat _ (leValue (s.mem.readBytes (0x040 + a.u) a.u))) ∧
      t.mem.readBytes 0x060 32 = leBytes a.u y.1.toNat ++ leBytes a.u y.2.toNat ++ zeroBytes (32 - 2 * a.u) ∧
      KeepsBytesOutside 0x060 32 s t ∧ Completes .ok t ∧ KeepsInputs s t ∧ t.cfgValid = true ∧ t.keyValid = true ∧
      t.S.take a.t = (keyExpand (s.mem.readBytes 0x100 a.b) a.r a.P a.Q).map zext128 ∧ t.S.drop a.t = s.S.drop a.t

/-- R244, R241, R184, R212: the errors of the engine commands in their order, each with no other effect. The key length is
checked by a block command only while KEY_VALID = 0. -/
def Obligations.EngineErrorsInOrder : Prop :=
  ∀ (s : State) (len : Nat),
    (s.cfgValid = false → ∀ i ∈ [Instr.keyexp, .encrypt len, .decrypt len],
      ∃ t, exec i s = .next t ∧ FailsWith s t .notConfigured) ∧
    ∀ a, s.cfgValid = true → s.active? = some a →
      (s.klen.toNat ≠ a.b → ∃ t, exec .keyexp s = .next t ∧ FailsWith s t .keyLengthError) ∧
      ∀ i ∈ [Instr.encrypt len, .decrypt len],
        (s.keyValid = false → s.klen.toNat ≠ a.b → ∃ t, exec i s = .next t ∧ FailsWith s t .keyLengthError) ∧
        (s.keyValid = true ∨ s.klen.toNat = a.b → len ≠ 2 * a.u →
          ∃ t, exec i s = .next t ∧ FailsWith s t .bufferBoundsError)

/-- R86, R215: the result of a block command and its error do not depend on whether the table was cached. -/
def Obligations.CacheIsTransparent : Prop :=
  ∀ (s : State) (len : Nat), s.CacheFresh → s.keyValid = true →
    ∀ i ∈ [Instr.encrypt len, .decrypt len],
      ∃ t t', exec i s = .next t ∧ exec i { s with keyValid := false } = .next t' ∧ t.err = t'.err ∧ t.mem = t'.mem

/-- R213, R214: what the two transforms compute, in numbers, by the number of rounds; and R218: they undo each other, for every
width, table, number of rounds and block. -/
def Obligations.CipherRoundTrip : Prop :=
  ∀ (w : Width) (S : List (Word (widthBits w))) (r : Nat) (x : Word (widthBits w) × Word (widthBits w)),
    ((encryptWords S 0 x).1.toNat = (x.1.toNat + (S.getD 0 0).toNat) % 2 ^ widthBits w ∧
      (encryptWords S 0 x).2.toNat = (x.2.toNat + (S.getD 1 0).toNat) % 2 ^ widthBits w) ∧
    EncryptRound S (r + 1) (encryptWords S r x) (encryptWords S (r + 1) x) ∧
    ((decryptWords S 0 x).1.toNat = (x.1.toNat + 2 ^ widthBits w - (S.getD 0 0).toNat) % 2 ^ widthBits w ∧
      (decryptWords S 0 x).2.toNat = (x.2.toNat + 2 ^ widthBits w - (S.getD 1 0).toNat) % 2 ^ widthBits w) ∧
    (∃ y, DecryptRound S (r + 1) x y ∧ decryptWords S (r + 1) x = decryptWords S r y) ∧
    decryptWords S r (encryptWords S r x) = x ∧ encryptWords S r (decryptWords S r x) = x

/-- R218 on the machine: ENCRYPT, the host's copy of BOUT into BIN, and DECRYPT give back the block in BOUT; and so does
DECRYPT before ENCRYPT. -/
def Obligations.MachineRoundTrip : Prop :=
  ∀ (s : State) (a : Active) (len : Nat), BlockReady s a len →
    (∃ t t', exec (.encrypt len) s = .next t ∧ exec (.decrypt len) (t.copyBoutToBin len) = .next t' ∧ t'.err = .ok ∧
      t'.mem.readBytes 0x060 len = s.mem.readBytes 0x040 len) ∧
    (∃ t t', exec (.decrypt len) s = .next t ∧ exec (.encrypt len) (t.copyBoutToBin len) = .next t' ∧ t'.err = .ok ∧
      t'.mem.readBytes 0x060 len = s.mem.readBytes 0x040 len)

/-- R220: the block transforms read S[0..2r+1] and no other entry. -/
def Obligations.CipherReadsTableOnly : Prop :=
  ∀ (w : Width) (S S' : List (Word (widthBits w))) (r : Nat) (x : Word (widthBits w) × Word (widthBits w)),
    (∀ i, i < 2 * (r + 1) → S.getD i 0 = S'.getD i 0) →
    encryptWords S r x = encryptWords S' r x ∧ decryptWords S r x = decryptWords S' r x

/-- R42, R185, D31: bytes of KEY at index b and above have no influence on a block command. -/
def Obligations.KeyBytesPastLengthIgnored : Prop :=
  ∀ (s : State) (m : Memory) (a : Active) (len : Nat), s.active? = some a →
    (∀ o, ¬(0x100 + a.b ≤ o ∧ o < 0x200) → m.read o = s.mem.read o) →
    ∀ i ∈ [Instr.keyexp, .encrypt len, .decrypt len],
      ∃ t t', exec i s = .next t ∧ exec i { s with mem := m } = .next t' ∧ t.err = t'.err ∧ t.S = t'.S ∧
        t.keyValid = t'.keyValid ∧ t.mem.readBytes 0x060 32 = t'.mem.readBytes 0x060 32

/-! ### The register window (20_memory.md, 10_state.md) -/

/-- R72, R79, R80: a host read returns the register's value, or 0 with BUSERR set on an access error, and changes nothing
else. -/
def Obligations.HostReadReturnsRegister : Prop :=
  ∀ (s : State) (o : Nat) (rest : List HostOp), HostReads s o rest →
    ∃ t, step s = .next t ∧ KeepsHardware s t ∧ t.ovr = s.ovr ∧ t.host = rest ∧
      (o % 4 ≠ 0 ∨ isReserved o → t.reads = 0 :: s.reads ∧ t.busErr = true) ∧
      (¬(o % 4 ≠ 0 ∨ isReserved o) → t.reads = s.windowWord o :: s.reads ∧ t.busErr = s.busErr)

/-- R22 to R24, R33, R34, R40, R72, R75: what the window shows at each mapped offset. The code of each error is R240's. -/
def Obligations.WindowShowsRegisters : Prop :=
  ∀ s : State,
    s.windowWord 0x000 = 0x52433501 ∧ s.windowWord 0x004 = 0 ∧
    ((s.windowWord 0x008).getLsbD 0 = s.busy ∧ (s.windowWord 0x008).getLsbD 1 = s.cfgValid ∧
      (s.windowWord 0x008).getLsbD 2 = s.keyValid ∧ (s.windowWord 0x008).getLsbD 3 = s.done ∧
      slice (s.windowWord 0x008) 7 4 = errValue s.err ∧ (s.windowWord 0x008).getLsbD 8 = s.ovr ∧
      (s.windowWord 0x008).getLsbD 9 = s.busErr ∧ slice (s.windowWord 0x008) 31 10 = 0) ∧
    (∀ c ∈ [(ErrCode.ok, 0), (.configError, 1), (.keyLengthError, 2), (.bufferBoundsError, 3), (.notConfigured, 4),
      (.widthError, 5), (.illegalCommand, 6)], s.err = c.1 → slice (s.windowWord 0x008) 7 4 = c.2) ∧
    ((s.windowWord 0x00C).getLsbD 0 = s.ie ∧ slice (s.windowWord 0x00C) 31 1 = 0) ∧
    (slice (s.windowWord 0x010) 2 0 = s.cfg.ws.toNat ∧ slice (s.windowWord 0x010) 7 3 = 0 ∧
      slice (s.windowWord 0x010) 15 8 = s.cfg.rounds.toNat ∧ slice (s.windowWord 0x010) 23 16 = s.cfg.keyBytes.toNat ∧
      (s.windowWord 0x010).getLsbD 24 = s.cfg.pqovr ∧ slice (s.windowWord 0x010) 31 25 = 0) ∧
    (s.windowWord 0x014).toNat = s.klen.toNat ∧
    (∀ o, 0x020 ≤ o → o < 0x0B0 →
      (s.windowWord o).toNat = (s.mem.read o).toNat + (s.mem.read (o + 1)).toNat * 2 ^ 8
        + (s.mem.read (o + 2)).toNat * 2 ^ 16 + (s.mem.read (o + 3)).toNat * 2 ^ 24) ∧
    (∀ o, 0x100 ≤ o → o < 0x200 → s.windowWord o = 0)

/-- R74: little-endian byte lanes, in reads and in writes, and the words of the five 128-bit registers. -/
def Obligations.LittleEndianLanes : Prop :=
  (∀ (m : Memory) (o i : Nat) (v : Word32), i < 4 →
    (m.readWord o).extractLsb' (8 * i) 8 = m.read (o + i) ∧
      (m.writeWord o v).read (o + i) = v.extractLsb' (8 * i) 8) ∧
  ∀ (s : State) (k : Nat), k < 4 →
    s.windowWord (0x020 + 4 * k) = s.pOvr.extractLsb' (32 * k) 32 ∧
    s.windowWord (0x030 + 4 * k) = s.qOvr.extractLsb' (32 * k) 32 ∧
    s.windowWord (0x080 + 4 * k) = s.wx.extractLsb' (32 * k) 32 ∧
    s.windowWord (0x090 + 4 * k) = s.wy.extractLsb' (32 * k) 32 ∧
    s.windowWord (0x0A0 + 4 * k) = s.wz.extractLsb' (32 * k) 32

/-- R79, R245: a misaligned, reserved or read-only write sets BUSERR and nothing else, busy or not. -/
def Obligations.WriteAccessErrors : Prop :=
  ∀ (s : State) (o : Nat) (v : Word32) (rest : List HostOp), HostWrites s o v rest →
    o % 4 ≠ 0 ∨ isReserved o ∨ isReadOnly o →
    ∃ t, step s = .next t ∧ t.busErr = true ∧ t.ovr = s.ovr ∧ KeepsHardware s t ∧ WriteTaken s t rest

/-- R280: while BUSY = 1 a write to any register but STATUS and CTRL that is no access error changes nothing except that OVR
becomes 1. -/
def Obligations.BusyWritesDropped : Prop :=
  ∀ (s : State) (o : Nat) (v : Word32) (rest : List HostOp), HostWrites s o v rest → s.busy = true →
    ¬(o % 4 ≠ 0 ∨ isReserved o ∨ isReadOnly o) → o ≠ 0x008 → o ≠ 0x00C →
    ∃ t, step s = .next t ∧ t.ovr = true ∧ t.busErr = s.busErr ∧ KeepsHardware s t ∧ WriteTaken s t rest

/-- R130: a write to CMD of an idle engine is accepted whatever its value: PEND <- v, BUSY <- 1, DONE <- 0, and nothing else of
the hardware. The latency is a free value (log entry 2). -/
def Obligations.CommandAcceptance : Prop :=
  ∀ (s : State) (v : Word32) (rest : List HostOp), HostWrites s 0x004 v rest → s.busy = false →
    ∃ t, step s = .next t ∧ t.pend = v ∧ t.busy = true ∧ t.done = false ∧ t.cfgValid = s.cfgValid ∧
      t.keyValid = s.keyValid ∧ t.err = s.err ∧ t.ovr = s.ovr ∧ t.busErr = s.busErr ∧ t.ie = s.ie ∧ t.cfg = s.cfg ∧
      t.klen = s.klen ∧ t.mem = s.mem ∧ t.S = s.S ∧ t.L = s.L ∧ t.host = rest ∧ t.reads = s.reads

/-- R32, R33: a write to STATUS clears the bits written as 1; a write to CTRL with SRST = 1 resets and one without sets IE; busy
or not, and neither sets OVR. CTRL reads IE, and 0 in SRST and its reserved bits. -/
def Obligations.StatusAndCtrlWrites : Prop :=
  ∀ (s : State) (v : Word32) (rest : List HostOp),
    (HostWrites s 0x008 v rest →
      ∃ t, step s = .next t ∧ t.done = (s.done && !v.getLsbD 3) ∧ t.ovr = (s.ovr && !v.getLsbD 8) ∧
        t.busErr = (s.busErr && !v.getLsbD 9) ∧ KeepsHardware s { t with done := s.done } ∧ WriteTaken s t rest) ∧
    (HostWrites s 0x00C v rest → v.getLsbD 1 = false →
      ∃ t, step s = .next t ∧ t.ie = v.getLsbD 0 ∧ t.ovr = s.ovr ∧ t.busErr = s.busErr ∧
        KeepsHardware s { t with ie := s.ie } ∧ WriteTaken s t rest) ∧
    (HostWrites s 0x00C v rest → v.getLsbD 1 = true →
      ∃ t, step s = .next t ∧ ResetValues t ∧ t.ie = false ∧ t.ovr = false ∧ WriteTaken s t rest) ∧
    (s.windowWord 0x00C).toNat = s.ie.toNat

/-- R54, R270, R272: State.reset, the reset input, and a write to CTRL with SRST = 1 whether or not the engine is busy, put
every register at the reset value the spec gives it. -/
def Obligations.ResetGivesResetValues : Prop :=
  ResetValues State.reset ∧ ∀ s : State, ResetNext s → ∃ t, step s = .next t ∧ ResetValues t

/-- R39, R40, R41: an accepted write to CFG, KLEN, P_OVR or Q_OVR. -/
def Obligations.ConfigurationWrites : Prop :=
  ∀ (s : State) (o : Nat) (v : Word32) (rest : List HostOp), HostWrites s o v rest → s.busy = false →
    (o = 0x010 →
      ∃ t, step s = .next t ∧ t.cfg.ws = v.extractLsb' 0 3 ∧ t.cfg.rounds = v.extractLsb' 8 8 ∧
        t.cfg.keyBytes = v.extractLsb' 16 8 ∧ t.cfg.pqovr = v.getLsbD 24 ∧ t.cfgValid = false ∧ t.keyValid = false ∧
        KeepsHardware s { t with cfg := s.cfg, cfgValid := s.cfgValid, keyValid := s.keyValid } ∧
        t.ovr = s.ovr ∧ t.busErr = s.busErr ∧ WriteTaken s t rest) ∧
    (o = 0x014 →
      ∃ t, step s = .next t ∧ t.klen = v.extractLsb' 0 8 ∧ t.keyValid = false ∧
        KeepsHardware s { t with klen := s.klen, keyValid := s.keyValid } ∧
        t.ovr = s.ovr ∧ t.busErr = s.busErr ∧ WriteTaken s t rest) ∧
    (o % 4 = 0 → 0x020 ≤ o → o < 0x040 →
      ∃ t, step s = .next t ∧ StoresWord s t o v ∧ t.cfgValid = false ∧ t.keyValid = false ∧
        KeepsHardware s { t with mem := s.mem, cfgValid := s.cfgValid, keyValid := s.keyValid } ∧
        t.ovr = s.ovr ∧ t.busErr = s.busErr ∧ WriteTaken s t rest)

/-- R42, R43, R45: an accepted write to KEY clears KEY_VALID; one to BIN, WX or WY has no side effect. -/
def Obligations.BufferWrites : Prop :=
  ∀ (s : State) (o : Nat) (v : Word32) (rest : List HostOp), HostWrites s o v rest → s.busy = false → o % 4 = 0 →
    (0x100 ≤ o → o < 0x200 →
      ∃ t, step s = .next t ∧ StoresWord s t o v ∧ t.keyValid = false ∧
        KeepsHardware s { t with mem := s.mem, keyValid := s.keyValid } ∧
        t.ovr = s.ovr ∧ t.busErr = s.busErr ∧ WriteTaken s t rest) ∧
    ((0x040 ≤ o ∧ o < 0x060) ∨ (0x080 ≤ o ∧ o < 0x0A0) →
      ∃ t, step s = .next t ∧ StoresWord s t o v ∧ KeepsHardware s { t with mem := s.mem } ∧
        t.ovr = s.ovr ∧ t.busErr = s.busErr ∧ WriteTaken s t rest)

/-- R42, R259: what a host read returns does not depend on KEY, S, L or PEND. -/
def Obligations.KeyAndTablesUnreadable : Prop :=
  ∀ (s : State) (m : Memory) (S' L' : List Word128) (p : Word32) (op : HostOp) (rest : List HostOp),
    s.completionDue = false → s.host = op :: rest → (op = .wait ∨ ∃ o, o < 0x400 ∧ op = .read (Config.base + o)) →
    (∀ o, ¬(0x100 ≤ o ∧ o < 0x200) → m.read o = s.mem.read o) →
    ∃ t t', step s = .next t ∧ step { s with mem := m, S := S', L := L', pend := p } = .next t' ∧
      t.reads = t'.reads ∧ t.busErr = t'.busErr

/-! ### Reset and the invariants (10_state.md, 70_reset_and_hazards.md) -/

/-- Every invariant holds at reset. That S and L have their sizes there rests on the zero tables the model chose (log entries
3 and 4). -/
def Obligations.ResetMeetsInvariant : Prop := State.reset.Inv

/-- R75, R54: every step keeps the byte storage canonical and inside the registers that store bytes. -/
def Obligations.StepKeepsMemoryCanonical : Prop :=
  ∀ s t : State, s.MemoryCanonical → step s = .next t → t.MemoryCanonical

/-- R48, R49, R28, R130: every step keeps S at 512 and L at 255 entries, and DONE at 0 while a command is pending. -/
def Obligations.StepKeepsTablesAndLifecycle : Prop :=
  ∀ s t : State, step s = .next t → (s.TablesSized → t.TablesSized) ∧ (s.BusyNotDone → t.BusyNotDone)

/-- R56: both invariants hold after reset, every step keeps them, and so CONFIGURE fails only when CFG_VALID = KEY_VALID = 0. -/
def Obligations.StepKeepsConfigConsistent : Prop :=
  State.reset.ConfigConsistent ∧
  (∀ s t : State, s.ConfigConsistent → step s = .next t → t.ConfigConsistent) ∧
  ∀ s t : State, s.ConfigConsistent → exec .configure s = .next t → t.err ≠ .ok →
    s.cfgValid = false ∧ s.keyValid = false

/-- R27: every step keeps the guarantee of the cache, that it is never used with a stale key. -/
def Obligations.StepKeepsCacheFresh : Prop :=
  ∀ s t : State, s.CacheFresh → step s = .next t → t.CacheFresh

/-! ### Whole-machine rules -/

/-- R26, R27: which events set and clear CFG_VALID and KEY_VALID. The registers a write must go to are the ones at the offsets
named. -/
def Obligations.ValidBitsChangeOnlyBy : Prop :=
  ∀ s t : State, step s = .next t →
    (s.cfgValid = false → t.cfgValid = true →
      s.completionDue = true ∧ decode s.pend = .ok .configure ∧ t.err = .ok) ∧
    (s.cfgValid = true → t.cfgValid = false →
      ResetNext s ∨
        ∃ o v rest, HostWrites s o v rest ∧ s.busy = false ∧ (o = 0x010 ∨ (0x020 ≤ o ∧ o < 0x040))) ∧
    (s.keyValid = false → t.keyValid = true →
      s.completionDue = true ∧ t.err = .ok ∧
        ∃ i, decode s.pend = .ok i ∧ (i = .keyexp ∨ isBlock i = true)) ∧
    (s.keyValid = true → t.keyValid = false →
      ResetNext s ∨
        (∃ o v rest, HostWrites s o v rest ∧ s.busy = false ∧
          (o = 0x010 ∨ o = 0x014 ∨ (0x020 ≤ o ∧ o < 0x040) ∨ (0x100 ≤ o ∧ o < 0x200))) ∨
        (s.completionDue = true ∧ t.err = .ok ∧ (decode s.pend = .ok .configure ∨ decode s.pend = .ok .keyclr)))

/-- R25, R28, R29: which events change BUSY, DONE and ERR. -/
def Obligations.LifecycleBitsChangeOnlyBy : Prop :=
  ∀ s t : State, step s = .next t →
    (s.completionDue = true → t.busy = false ∧ t.done = true) ∧
    (s.busy = false → t.busy = true → ∃ v rest, HostWrites s 0x004 v rest ∧ t.pend = v ∧ t.done = false) ∧
    (s.busy = true → t.busy = false → s.completionDue = true ∨ ResetNext s) ∧
    (s.done = false → t.done = true → s.completionDue = true) ∧
    (s.done = true → t.done = false →
      ResetNext s ∨ (∃ v rest, HostWrites s 0x004 v rest ∧ s.busy = false) ∨
        ∃ v rest, HostWrites s 0x008 v rest ∧ v.getLsbD 3 = true) ∧
    (t.err ≠ s.err → s.completionDue = true ∨ ResetNext s)

/-- R30, R31: which events change OVR and BUSERR. -/
def Obligations.StickyBitsChangeOnlyBy : Prop :=
  ∀ s t : State, step s = .next t →
    (s.ovr = false → t.ovr = true → s.busy = true ∧ ∃ o v rest, HostWrites s o v rest ∧ o ≠ 0x008 ∧ o ≠ 0x00C) ∧
    (s.ovr = true → t.ovr = false → ResetNext s ∨ ∃ v rest, HostWrites s 0x008 v rest ∧ v.getLsbD 8 = true) ∧
    (s.busErr = false → t.busErr = true →
      (∃ o rest, HostReads s o rest ∧ (o % 4 ≠ 0 ∨ isReserved o)) ∨
        ∃ o v rest, HostWrites s o v rest ∧ (o % 4 ≠ 0 ∨ isReserved o ∨ isReadOnly o)) ∧
    (s.busErr = true → t.busErr = false → ResetNext s ∨ ∃ v rest, HostWrites s 0x008 v rest ∧ v.getLsbD 9 = true)

/-- R44, R46, R48: which events change BOUT, WZ and S. -/
def Obligations.OutputsChangeOnlyBy : Prop :=
  ∀ s t : State, step s = .next t → ¬ResetNext s →
    (t.mem.readBytes 0x060 32 ≠ s.mem.readBytes 0x060 32 →
      s.completionDue = true ∧ t.err = .ok ∧ ∃ i, decode s.pend = .ok i ∧ isBlock i = true) ∧
    (t.wz ≠ s.wz → s.completionDue = true ∧ t.err = .ok ∧ ∃ i, decode s.pend = .ok i ∧ isWordUnit i = true) ∧
    (t.S ≠ s.S → s.completionDue = true ∧ t.err = .ok ∧
      ∃ i, decode s.pend = .ok i ∧ (i = .keyexp ∨ i = .keyclr ∨ (isBlock i = true ∧ s.keyValid = false)))

/-- R131: while a command is pending and no reset comes, a host access leaves the command's inputs and outputs, and the command
itself, as they were. That it takes one off `delay` is the model's choice (log entry 2). -/
def Obligations.BusyHoldsInputs : Prop :=
  ∀ s t : State, step s = .next t → s.busy = true → s.BusyNotDone → s.completionDue = false → ¬ResetNext s →
    t.busy = true ∧ t.pend = s.pend ∧ t.cfg = s.cfg ∧ t.klen = s.klen ∧ t.mem = s.mem ∧ t.S = s.S ∧ t.L = s.L ∧
      t.cfgValid = s.cfgValid ∧ t.keyValid = s.keyValid ∧ t.err = s.err ∧ t.done = s.done ∧ t.delay = s.delay - 1

/-- R243, R250: irq rises only at a completion or when a write to CTRL sets IE. -/
def Obligations.IrqRisesOnlyBy : Prop :=
  ∀ s t : State, step s = .next t → s.irq = false → t.irq = true →
    (s.completionDue = true ∧ s.ie = true) ∨
      (s.done = true ∧ ∃ v rest, HostWrites s 0x00C v rest ∧ v.getLsbD 0 = true ∧ v.getLsbD 1 = false)

/-- R79, U10: a step goes on, or it is the host's access to an address outside the window, which the model refuses by name. -/
def Obligations.StepStopsOnlyOutsideWindow : Prop :=
  ∀ s : State,
    (∃ t, step s = .next t) ∨
    (step s = .refused .outsideWindow ∧ s.completionDue = false ∧
      ∃ op rest, s.host = op :: rest ∧ ¬op.InWindow)

/-- R133: an accepted command completes, or is reset, after finitely many steps: at most one more than the host accesses that
the free latency lets go first (log entry 2). -/
def Obligations.AcceptedCommandCompletes : Prop :=
  ∀ s : State, s.busy = true → (∀ op ∈ s.host, op.InWindow) →
    ∃ n t, n ≤ s.delay + 1 ∧ s.after n = some t ∧ t.busy = false
end

