-- ==== Sys2Proof/Laws/State.lean ====
section
/-! SUPPORT. One lemma per field per named update of the state, each true by `rfl`, so that no later proof unfolds a record
update. -/

namespace Sys2Proof.Machine

section Accept

variable (s : State) (v : Word32)

@[simp] theorem State.accept_busy : (s.accept v).busy = true := rfl
@[simp] theorem State.accept_cfgValid : (s.accept v).cfgValid = s.cfgValid := rfl
@[simp] theorem State.accept_keyValid : (s.accept v).keyValid = s.keyValid := rfl
@[simp] theorem State.accept_done : (s.accept v).done = false := rfl
@[simp] theorem State.accept_err : (s.accept v).err = s.err := rfl
@[simp] theorem State.accept_ovr : (s.accept v).ovr = s.ovr := rfl
@[simp] theorem State.accept_busErr : (s.accept v).busErr = s.busErr := rfl
@[simp] theorem State.accept_ie : (s.accept v).ie = s.ie := rfl
@[simp] theorem State.accept_cfg : (s.accept v).cfg = s.cfg := rfl
@[simp] theorem State.accept_klen : (s.accept v).klen = s.klen := rfl
@[simp] theorem State.accept_mem : (s.accept v).mem = s.mem := rfl
@[simp] theorem State.accept_S : (s.accept v).S = s.S := rfl
@[simp] theorem State.accept_L : (s.accept v).L = s.L := rfl
@[simp] theorem State.accept_pend : (s.accept v).pend = v := rfl
@[simp] theorem State.accept_host : (s.accept v).host = s.host := rfl
@[simp] theorem State.accept_reads : (s.accept v).reads = s.reads := rfl
@[simp] theorem State.accept_delay : (s.accept v).delay = Config.latency v s.fresh := rfl
@[simp] theorem State.accept_fresh : (s.accept v).fresh = s.fresh + 1 := rfl

end Accept

section PlaceCommand

variable (s : State) (v : Word32)

@[simp] theorem State.placeCommand_busy : (s.placeCommand v).busy = true := rfl
@[simp] theorem State.placeCommand_cfgValid : (s.placeCommand v).cfgValid = s.cfgValid := rfl
@[simp] theorem State.placeCommand_keyValid : (s.placeCommand v).keyValid = s.keyValid := rfl
@[simp] theorem State.placeCommand_done : (s.placeCommand v).done = false := rfl
@[simp] theorem State.placeCommand_err : (s.placeCommand v).err = s.err := rfl
@[simp] theorem State.placeCommand_ovr : (s.placeCommand v).ovr = s.ovr := rfl
@[simp] theorem State.placeCommand_busErr : (s.placeCommand v).busErr = s.busErr := rfl
@[simp] theorem State.placeCommand_ie : (s.placeCommand v).ie = s.ie := rfl
@[simp] theorem State.placeCommand_cfg : (s.placeCommand v).cfg = s.cfg := rfl
@[simp] theorem State.placeCommand_klen : (s.placeCommand v).klen = s.klen := rfl
@[simp] theorem State.placeCommand_mem : (s.placeCommand v).mem = s.mem := rfl
@[simp] theorem State.placeCommand_S : (s.placeCommand v).S = s.S := rfl
@[simp] theorem State.placeCommand_L : (s.placeCommand v).L = s.L := rfl
@[simp] theorem State.placeCommand_pend : (s.placeCommand v).pend = v := rfl
@[simp] theorem State.placeCommand_host : (s.placeCommand v).host = s.host := rfl
@[simp] theorem State.placeCommand_reads : (s.placeCommand v).reads = s.reads := rfl
@[simp] theorem State.placeCommand_delay : (s.placeCommand v).delay = 0 := rfl
@[simp] theorem State.placeCommand_fresh : (s.placeCommand v).fresh = s.fresh := rfl

end PlaceCommand

section Complete

variable (s : State) (e : ErrCode)

@[simp] theorem State.complete_busy : (s.complete e).busy = false := rfl
@[simp] theorem State.complete_cfgValid : (s.complete e).cfgValid = s.cfgValid := rfl
@[simp] theorem State.complete_keyValid : (s.complete e).keyValid = s.keyValid := rfl
@[simp] theorem State.complete_done : (s.complete e).done = true := rfl
@[simp] theorem State.complete_err : (s.complete e).err = e := rfl
@[simp] theorem State.complete_ovr : (s.complete e).ovr = s.ovr := rfl
@[simp] theorem State.complete_busErr : (s.complete e).busErr = s.busErr := rfl
@[simp] theorem State.complete_ie : (s.complete e).ie = s.ie := rfl
@[simp] theorem State.complete_cfg : (s.complete e).cfg = s.cfg := rfl
@[simp] theorem State.complete_klen : (s.complete e).klen = s.klen := rfl
@[simp] theorem State.complete_mem : (s.complete e).mem = s.mem := rfl
@[simp] theorem State.complete_S : (s.complete e).S = s.S := rfl
@[simp] theorem State.complete_L : (s.complete e).L = s.L := rfl
@[simp] theorem State.complete_pend : (s.complete e).pend = s.pend := rfl
@[simp] theorem State.complete_host : (s.complete e).host = s.host := rfl
@[simp] theorem State.complete_reads : (s.complete e).reads = s.reads := rfl
@[simp] theorem State.complete_delay : (s.complete e).delay = s.delay := rfl
@[simp] theorem State.complete_fresh : (s.complete e).fresh = s.fresh := rfl

end Complete

section SetWz

variable (s : State) {w : Nat} (z : Word w)

@[simp] theorem State.setWz_busy : (s.setWz z).busy = s.busy := rfl
@[simp] theorem State.setWz_cfgValid : (s.setWz z).cfgValid = s.cfgValid := rfl
@[simp] theorem State.setWz_keyValid : (s.setWz z).keyValid = s.keyValid := rfl
@[simp] theorem State.setWz_done : (s.setWz z).done = s.done := rfl
@[simp] theorem State.setWz_err : (s.setWz z).err = s.err := rfl
@[simp] theorem State.setWz_ovr : (s.setWz z).ovr = s.ovr := rfl
@[simp] theorem State.setWz_busErr : (s.setWz z).busErr = s.busErr := rfl
@[simp] theorem State.setWz_ie : (s.setWz z).ie = s.ie := rfl
@[simp] theorem State.setWz_cfg : (s.setWz z).cfg = s.cfg := rfl
@[simp] theorem State.setWz_klen : (s.setWz z).klen = s.klen := rfl
@[simp] theorem State.setWz_mem : (s.setWz z).mem = s.mem.write128 0x0A0 (zext128 z) := rfl
@[simp] theorem State.setWz_S : (s.setWz z).S = s.S := rfl
@[simp] theorem State.setWz_L : (s.setWz z).L = s.L := rfl
@[simp] theorem State.setWz_pend : (s.setWz z).pend = s.pend := rfl
@[simp] theorem State.setWz_host : (s.setWz z).host = s.host := rfl
@[simp] theorem State.setWz_reads : (s.setWz z).reads = s.reads := rfl
@[simp] theorem State.setWz_delay : (s.setWz z).delay = s.delay := rfl
@[simp] theorem State.setWz_fresh : (s.setWz z).fresh = s.fresh := rfl

end SetWz

section SetBout

variable (s : State) (w : Width) (x : Word (widthBits w) × Word (widthBits w))

@[simp] theorem State.setBout_busy : (s.setBout w x).busy = s.busy := rfl
@[simp] theorem State.setBout_cfgValid : (s.setBout w x).cfgValid = s.cfgValid := rfl
@[simp] theorem State.setBout_keyValid : (s.setBout w x).keyValid = s.keyValid := rfl
@[simp] theorem State.setBout_done : (s.setBout w x).done = s.done := rfl
@[simp] theorem State.setBout_err : (s.setBout w x).err = s.err := rfl
@[simp] theorem State.setBout_ovr : (s.setBout w x).ovr = s.ovr := rfl
@[simp] theorem State.setBout_busErr : (s.setBout w x).busErr = s.busErr := rfl
@[simp] theorem State.setBout_ie : (s.setBout w x).ie = s.ie := rfl
@[simp] theorem State.setBout_cfg : (s.setBout w x).cfg = s.cfg := rfl
@[simp] theorem State.setBout_klen : (s.setBout w x).klen = s.klen := rfl
@[simp] theorem State.setBout_mem : (s.setBout w x).mem = s.mem.writeBytes 0x060 (blockBytes w x) := rfl
@[simp] theorem State.setBout_S : (s.setBout w x).S = s.S := rfl
@[simp] theorem State.setBout_L : (s.setBout w x).L = s.L := rfl
@[simp] theorem State.setBout_pend : (s.setBout w x).pend = s.pend := rfl
@[simp] theorem State.setBout_host : (s.setBout w x).host = s.host := rfl
@[simp] theorem State.setBout_reads : (s.setBout w x).reads = s.reads := rfl
@[simp] theorem State.setBout_delay : (s.setBout w x).delay = s.delay := rfl
@[simp] theorem State.setBout_fresh : (s.setBout w x).fresh = s.fresh := rfl

end SetBout

section FillTable

variable (s : State) {w : Nat} (T : List (Word w))

@[simp] theorem State.fillTable_busy : (s.fillTable T).busy = s.busy := rfl
@[simp] theorem State.fillTable_cfgValid : (s.fillTable T).cfgValid = s.cfgValid := rfl
@[simp] theorem State.fillTable_keyValid : (s.fillTable T).keyValid = true := rfl
@[simp] theorem State.fillTable_done : (s.fillTable T).done = s.done := rfl
@[simp] theorem State.fillTable_err : (s.fillTable T).err = s.err := rfl
@[simp] theorem State.fillTable_ovr : (s.fillTable T).ovr = s.ovr := rfl
@[simp] theorem State.fillTable_busErr : (s.fillTable T).busErr = s.busErr := rfl
@[simp] theorem State.fillTable_ie : (s.fillTable T).ie = s.ie := rfl
@[simp] theorem State.fillTable_cfg : (s.fillTable T).cfg = s.cfg := rfl
@[simp] theorem State.fillTable_klen : (s.fillTable T).klen = s.klen := rfl
@[simp] theorem State.fillTable_mem : (s.fillTable T).mem = s.mem := rfl
@[simp] theorem State.fillTable_S : (s.fillTable T).S = T.map zext128 ++ s.S.drop T.length := rfl
@[simp] theorem State.fillTable_L : (s.fillTable T).L = unspecifiedL s.fresh := rfl
@[simp] theorem State.fillTable_pend : (s.fillTable T).pend = s.pend := rfl
@[simp] theorem State.fillTable_host : (s.fillTable T).host = s.host := rfl
@[simp] theorem State.fillTable_reads : (s.fillTable T).reads = s.reads := rfl
@[simp] theorem State.fillTable_delay : (s.fillTable T).delay = s.delay := rfl
@[simp] theorem State.fillTable_fresh : (s.fillTable T).fresh = s.fresh + 1 := rfl

end FillTable

section ClearKey

variable (s : State)

@[simp] theorem State.clearKey_busy : (s.clearKey).busy = s.busy := rfl
@[simp] theorem State.clearKey_cfgValid : (s.clearKey).cfgValid = s.cfgValid := rfl
@[simp] theorem State.clearKey_keyValid : (s.clearKey).keyValid = false := rfl
@[simp] theorem State.clearKey_done : (s.clearKey).done = s.done := rfl
@[simp] theorem State.clearKey_err : (s.clearKey).err = s.err := rfl
@[simp] theorem State.clearKey_ovr : (s.clearKey).ovr = s.ovr := rfl
@[simp] theorem State.clearKey_busErr : (s.clearKey).busErr = s.busErr := rfl
@[simp] theorem State.clearKey_ie : (s.clearKey).ie = s.ie := rfl
@[simp] theorem State.clearKey_cfg : (s.clearKey).cfg = s.cfg := rfl
@[simp] theorem State.clearKey_klen : (s.clearKey).klen = s.klen := rfl
@[simp] theorem State.clearKey_mem : (s.clearKey).mem = s.mem.writeBytes 0x100 (zeroBytes 256) := by simp only [State.clearKey]
@[simp] theorem State.clearKey_S : (s.clearKey).S = List.replicate Config.tMax 0 := rfl
@[simp] theorem State.clearKey_L : (s.clearKey).L = List.replicate Config.cMax 0 := rfl
@[simp] theorem State.clearKey_pend : (s.clearKey).pend = s.pend := rfl
@[simp] theorem State.clearKey_host : (s.clearKey).host = s.host := rfl
@[simp] theorem State.clearKey_reads : (s.clearKey).reads = s.reads := rfl
@[simp] theorem State.clearKey_delay : (s.clearKey).delay = s.delay := rfl
@[simp] theorem State.clearKey_fresh : (s.clearKey).fresh = s.fresh := rfl

end ClearKey

section HardReset

variable (s : State)

@[simp] theorem State.hardReset_busy : (s.hardReset).busy = false := rfl
@[simp] theorem State.hardReset_cfgValid : (s.hardReset).cfgValid = false := rfl
@[simp] theorem State.hardReset_keyValid : (s.hardReset).keyValid = false := rfl
@[simp] theorem State.hardReset_done : (s.hardReset).done = false := rfl
@[simp] theorem State.hardReset_err : (s.hardReset).err = .ok := rfl
@[simp] theorem State.hardReset_ovr : (s.hardReset).ovr = false := rfl
@[simp] theorem State.hardReset_busErr : (s.hardReset).busErr = false := rfl
@[simp] theorem State.hardReset_ie : (s.hardReset).ie = false := rfl
@[simp] theorem State.hardReset_cfg : (s.hardReset).cfg = ⟨0, 0, 0, false⟩ := rfl
@[simp] theorem State.hardReset_klen : (s.hardReset).klen = 0 := rfl
@[simp] theorem State.hardReset_mem : (s.hardReset).mem = [] := rfl
@[simp] theorem State.hardReset_S : (s.hardReset).S = unspecifiedS s.fresh := by simp only [State.hardReset]
@[simp] theorem State.hardReset_L : (s.hardReset).L = unspecifiedL s.fresh := rfl
@[simp] theorem State.hardReset_pend : (s.hardReset).pend = 0 := rfl
@[simp] theorem State.hardReset_host : (s.hardReset).host = s.host := rfl
@[simp] theorem State.hardReset_reads : (s.hardReset).reads = s.reads := rfl
@[simp] theorem State.hardReset_delay : (s.hardReset).delay = 0 := rfl
@[simp] theorem State.hardReset_fresh : (s.hardReset).fresh = s.fresh + 1 := rfl

end HardReset

section WriteStatus

variable (s : State) (v : Word32)

@[simp] theorem State.writeStatus_busy : (s.writeStatus v).busy = s.busy := rfl
@[simp] theorem State.writeStatus_cfgValid : (s.writeStatus v).cfgValid = s.cfgValid := rfl
@[simp] theorem State.writeStatus_keyValid : (s.writeStatus v).keyValid = s.keyValid := rfl
@[simp] theorem State.writeStatus_done : (s.writeStatus v).done = (s.done && !v.getLsbD 3) := rfl
@[simp] theorem State.writeStatus_err : (s.writeStatus v).err = s.err := rfl
@[simp] theorem State.writeStatus_ovr : (s.writeStatus v).ovr = (s.ovr && !v.getLsbD 8) := rfl
@[simp] theorem State.writeStatus_busErr : (s.writeStatus v).busErr = (s.busErr && !v.getLsbD 9) := rfl
@[simp] theorem State.writeStatus_ie : (s.writeStatus v).ie = s.ie := rfl
@[simp] theorem State.writeStatus_cfg : (s.writeStatus v).cfg = s.cfg := rfl
@[simp] theorem State.writeStatus_klen : (s.writeStatus v).klen = s.klen := rfl
@[simp] theorem State.writeStatus_mem : (s.writeStatus v).mem = s.mem := rfl
@[simp] theorem State.writeStatus_S : (s.writeStatus v).S = s.S := rfl
@[simp] theorem State.writeStatus_L : (s.writeStatus v).L = s.L := rfl
@[simp] theorem State.writeStatus_pend : (s.writeStatus v).pend = s.pend := rfl
@[simp] theorem State.writeStatus_host : (s.writeStatus v).host = s.host := rfl
@[simp] theorem State.writeStatus_reads : (s.writeStatus v).reads = s.reads := rfl
@[simp] theorem State.writeStatus_delay : (s.writeStatus v).delay = s.delay := rfl
@[simp] theorem State.writeStatus_fresh : (s.writeStatus v).fresh = s.fresh := rfl

end WriteStatus

section AccessError

variable (s : State)

@[simp] theorem State.accessError_busy : (s.accessError).busy = s.busy := rfl
@[simp] theorem State.accessError_cfgValid : (s.accessError).cfgValid = s.cfgValid := rfl
@[simp] theorem State.accessError_keyValid : (s.accessError).keyValid = s.keyValid := rfl
@[simp] theorem State.accessError_done : (s.accessError).done = s.done := rfl
@[simp] theorem State.accessError_err : (s.accessError).err = s.err := rfl
@[simp] theorem State.accessError_ovr : (s.accessError).ovr = s.ovr := rfl
@[simp] theorem State.accessError_busErr : (s.accessError).busErr = true := rfl
@[simp] theorem State.accessError_ie : (s.accessError).ie = s.ie := rfl
@[simp] theorem State.accessError_cfg : (s.accessError).cfg = s.cfg := rfl
@[simp] theorem State.accessError_klen : (s.accessError).klen = s.klen := rfl
@[simp] theorem State.accessError_mem : (s.accessError).mem = s.mem := rfl
@[simp] theorem State.accessError_S : (s.accessError).S = s.S := rfl
@[simp] theorem State.accessError_L : (s.accessError).L = s.L := rfl
@[simp] theorem State.accessError_pend : (s.accessError).pend = s.pend := rfl
@[simp] theorem State.accessError_host : (s.accessError).host = s.host := rfl
@[simp] theorem State.accessError_reads : (s.accessError).reads = s.reads := rfl
@[simp] theorem State.accessError_delay : (s.accessError).delay = s.delay := rfl
@[simp] theorem State.accessError_fresh : (s.accessError).fresh = s.fresh := rfl

end AccessError

section DropWrite

variable (s : State)

@[simp] theorem State.dropWrite_busy : (s.dropWrite).busy = s.busy := rfl
@[simp] theorem State.dropWrite_cfgValid : (s.dropWrite).cfgValid = s.cfgValid := rfl
@[simp] theorem State.dropWrite_keyValid : (s.dropWrite).keyValid = s.keyValid := rfl
@[simp] theorem State.dropWrite_done : (s.dropWrite).done = s.done := rfl
@[simp] theorem State.dropWrite_err : (s.dropWrite).err = s.err := rfl
@[simp] theorem State.dropWrite_ovr : (s.dropWrite).ovr = true := rfl
@[simp] theorem State.dropWrite_busErr : (s.dropWrite).busErr = s.busErr := rfl
@[simp] theorem State.dropWrite_ie : (s.dropWrite).ie = s.ie := rfl
@[simp] theorem State.dropWrite_cfg : (s.dropWrite).cfg = s.cfg := rfl
@[simp] theorem State.dropWrite_klen : (s.dropWrite).klen = s.klen := rfl
@[simp] theorem State.dropWrite_mem : (s.dropWrite).mem = s.mem := rfl
@[simp] theorem State.dropWrite_S : (s.dropWrite).S = s.S := rfl
@[simp] theorem State.dropWrite_L : (s.dropWrite).L = s.L := rfl
@[simp] theorem State.dropWrite_pend : (s.dropWrite).pend = s.pend := rfl
@[simp] theorem State.dropWrite_host : (s.dropWrite).host = s.host := rfl
@[simp] theorem State.dropWrite_reads : (s.dropWrite).reads = s.reads := rfl
@[simp] theorem State.dropWrite_delay : (s.dropWrite).delay = s.delay := rfl
@[simp] theorem State.dropWrite_fresh : (s.dropWrite).fresh = s.fresh := rfl

end DropWrite

section ReturnData

variable (s : State) (v : Word32)

@[simp] theorem State.returnData_busy : (s.returnData v).busy = s.busy := rfl
@[simp] theorem State.returnData_cfgValid : (s.returnData v).cfgValid = s.cfgValid := rfl
@[simp] theorem State.returnData_keyValid : (s.returnData v).keyValid = s.keyValid := rfl
@[simp] theorem State.returnData_done : (s.returnData v).done = s.done := rfl
@[simp] theorem State.returnData_err : (s.returnData v).err = s.err := rfl
@[simp] theorem State.returnData_ovr : (s.returnData v).ovr = s.ovr := rfl
@[simp] theorem State.returnData_busErr : (s.returnData v).busErr = s.busErr := rfl
@[simp] theorem State.returnData_ie : (s.returnData v).ie = s.ie := rfl
@[simp] theorem State.returnData_cfg : (s.returnData v).cfg = s.cfg := rfl
@[simp] theorem State.returnData_klen : (s.returnData v).klen = s.klen := rfl
@[simp] theorem State.returnData_mem : (s.returnData v).mem = s.mem := rfl
@[simp] theorem State.returnData_S : (s.returnData v).S = s.S := rfl
@[simp] theorem State.returnData_L : (s.returnData v).L = s.L := rfl
@[simp] theorem State.returnData_pend : (s.returnData v).pend = s.pend := rfl
@[simp] theorem State.returnData_host : (s.returnData v).host = s.host := rfl
@[simp] theorem State.returnData_reads : (s.returnData v).reads = v :: s.reads := rfl
@[simp] theorem State.returnData_delay : (s.returnData v).delay = s.delay := rfl
@[simp] theorem State.returnData_fresh : (s.returnData v).fresh = s.fresh := rfl

end ReturnData

section WriteCfg

variable (s : State) (v : Word32)

@[simp] theorem State.writeCfg_busy : (s.writeCfg v).busy = s.busy := rfl
@[simp] theorem State.writeCfg_cfgValid : (s.writeCfg v).cfgValid = false := rfl
@[simp] theorem State.writeCfg_keyValid : (s.writeCfg v).keyValid = false := rfl
@[simp] theorem State.writeCfg_done : (s.writeCfg v).done = s.done := rfl
@[simp] theorem State.writeCfg_err : (s.writeCfg v).err = s.err := rfl
@[simp] theorem State.writeCfg_ovr : (s.writeCfg v).ovr = s.ovr := rfl
@[simp] theorem State.writeCfg_busErr : (s.writeCfg v).busErr = s.busErr := rfl
@[simp] theorem State.writeCfg_ie : (s.writeCfg v).ie = s.ie := rfl
@[simp] theorem State.writeCfg_cfg : (s.writeCfg v).cfg = cfgOfWord v := rfl
@[simp] theorem State.writeCfg_klen : (s.writeCfg v).klen = s.klen := rfl
@[simp] theorem State.writeCfg_mem : (s.writeCfg v).mem = s.mem := rfl
@[simp] theorem State.writeCfg_S : (s.writeCfg v).S = s.S := rfl
@[simp] theorem State.writeCfg_L : (s.writeCfg v).L = s.L := rfl
@[simp] theorem State.writeCfg_pend : (s.writeCfg v).pend = s.pend := rfl
@[simp] theorem State.writeCfg_host : (s.writeCfg v).host = s.host := rfl
@[simp] theorem State.writeCfg_reads : (s.writeCfg v).reads = s.reads := rfl
@[simp] theorem State.writeCfg_delay : (s.writeCfg v).delay = s.delay := rfl
@[simp] theorem State.writeCfg_fresh : (s.writeCfg v).fresh = s.fresh := rfl

end WriteCfg

section WriteKlen

variable (s : State) (v : Word32)

@[simp] theorem State.writeKlen_busy : (s.writeKlen v).busy = s.busy := rfl
@[simp] theorem State.writeKlen_cfgValid : (s.writeKlen v).cfgValid = s.cfgValid := rfl
@[simp] theorem State.writeKlen_keyValid : (s.writeKlen v).keyValid = false := rfl
@[simp] theorem State.writeKlen_done : (s.writeKlen v).done = s.done := rfl
@[simp] theorem State.writeKlen_err : (s.writeKlen v).err = s.err := rfl
@[simp] theorem State.writeKlen_ovr : (s.writeKlen v).ovr = s.ovr := rfl
@[simp] theorem State.writeKlen_busErr : (s.writeKlen v).busErr = s.busErr := rfl
@[simp] theorem State.writeKlen_ie : (s.writeKlen v).ie = s.ie := rfl
@[simp] theorem State.writeKlen_cfg : (s.writeKlen v).cfg = s.cfg := rfl
@[simp] theorem State.writeKlen_klen : (s.writeKlen v).klen = v.extractLsb' 0 8 := rfl
@[simp] theorem State.writeKlen_mem : (s.writeKlen v).mem = s.mem := rfl
@[simp] theorem State.writeKlen_S : (s.writeKlen v).S = s.S := rfl
@[simp] theorem State.writeKlen_L : (s.writeKlen v).L = s.L := rfl
@[simp] theorem State.writeKlen_pend : (s.writeKlen v).pend = s.pend := rfl
@[simp] theorem State.writeKlen_host : (s.writeKlen v).host = s.host := rfl
@[simp] theorem State.writeKlen_reads : (s.writeKlen v).reads = s.reads := rfl
@[simp] theorem State.writeKlen_delay : (s.writeKlen v).delay = s.delay := rfl
@[simp] theorem State.writeKlen_fresh : (s.writeKlen v).fresh = s.fresh := rfl

end WriteKlen

section WriteOverride

variable (s : State) (o : Nat) (v : Word32)

@[simp] theorem State.writeOverride_busy : (s.writeOverride o v).busy = s.busy := rfl
@[simp] theorem State.writeOverride_cfgValid : (s.writeOverride o v).cfgValid = false := rfl
@[simp] theorem State.writeOverride_keyValid : (s.writeOverride o v).keyValid = false := rfl
@[simp] theorem State.writeOverride_done : (s.writeOverride o v).done = s.done := rfl
@[simp] theorem State.writeOverride_err : (s.writeOverride o v).err = s.err := rfl
@[simp] theorem State.writeOverride_ovr : (s.writeOverride o v).ovr = s.ovr := rfl
@[simp] theorem State.writeOverride_busErr : (s.writeOverride o v).busErr = s.busErr := rfl
@[simp] theorem State.writeOverride_ie : (s.writeOverride o v).ie = s.ie := rfl
@[simp] theorem State.writeOverride_cfg : (s.writeOverride o v).cfg = s.cfg := rfl
@[simp] theorem State.writeOverride_klen : (s.writeOverride o v).klen = s.klen := rfl
@[simp] theorem State.writeOverride_mem : (s.writeOverride o v).mem = s.mem.writeWord o v := rfl
@[simp] theorem State.writeOverride_S : (s.writeOverride o v).S = s.S := rfl
@[simp] theorem State.writeOverride_L : (s.writeOverride o v).L = s.L := rfl
@[simp] theorem State.writeOverride_pend : (s.writeOverride o v).pend = s.pend := rfl
@[simp] theorem State.writeOverride_host : (s.writeOverride o v).host = s.host := rfl
@[simp] theorem State.writeOverride_reads : (s.writeOverride o v).reads = s.reads := rfl
@[simp] theorem State.writeOverride_delay : (s.writeOverride o v).delay = s.delay := rfl
@[simp] theorem State.writeOverride_fresh : (s.writeOverride o v).fresh = s.fresh := rfl

end WriteOverride

section WriteKey

variable (s : State) (o : Nat) (v : Word32)

@[simp] theorem State.writeKey_busy : (s.writeKey o v).busy = s.busy := rfl
@[simp] theorem State.writeKey_cfgValid : (s.writeKey o v).cfgValid = s.cfgValid := rfl
@[simp] theorem State.writeKey_keyValid : (s.writeKey o v).keyValid = false := rfl
@[simp] theorem State.writeKey_done : (s.writeKey o v).done = s.done := rfl
@[simp] theorem State.writeKey_err : (s.writeKey o v).err = s.err := rfl
@[simp] theorem State.writeKey_ovr : (s.writeKey o v).ovr = s.ovr := rfl
@[simp] theorem State.writeKey_busErr : (s.writeKey o v).busErr = s.busErr := rfl
@[simp] theorem State.writeKey_ie : (s.writeKey o v).ie = s.ie := rfl
@[simp] theorem State.writeKey_cfg : (s.writeKey o v).cfg = s.cfg := rfl
@[simp] theorem State.writeKey_klen : (s.writeKey o v).klen = s.klen := rfl
@[simp] theorem State.writeKey_mem : (s.writeKey o v).mem = s.mem.writeWord o v := rfl
@[simp] theorem State.writeKey_S : (s.writeKey o v).S = s.S := rfl
@[simp] theorem State.writeKey_L : (s.writeKey o v).L = s.L := rfl
@[simp] theorem State.writeKey_pend : (s.writeKey o v).pend = s.pend := rfl
@[simp] theorem State.writeKey_host : (s.writeKey o v).host = s.host := rfl
@[simp] theorem State.writeKey_reads : (s.writeKey o v).reads = s.reads := rfl
@[simp] theorem State.writeKey_delay : (s.writeKey o v).delay = s.delay := rfl
@[simp] theorem State.writeKey_fresh : (s.writeKey o v).fresh = s.fresh := rfl

end WriteKey

section WriteData

variable (s : State) (o : Nat) (v : Word32)

@[simp] theorem State.writeData_busy : (s.writeData o v).busy = s.busy := rfl
@[simp] theorem State.writeData_cfgValid : (s.writeData o v).cfgValid = s.cfgValid := rfl
@[simp] theorem State.writeData_keyValid : (s.writeData o v).keyValid = s.keyValid := rfl
@[simp] theorem State.writeData_done : (s.writeData o v).done = s.done := rfl
@[simp] theorem State.writeData_err : (s.writeData o v).err = s.err := rfl
@[simp] theorem State.writeData_ovr : (s.writeData o v).ovr = s.ovr := rfl
@[simp] theorem State.writeData_busErr : (s.writeData o v).busErr = s.busErr := rfl
@[simp] theorem State.writeData_ie : (s.writeData o v).ie = s.ie := rfl
@[simp] theorem State.writeData_cfg : (s.writeData o v).cfg = s.cfg := rfl
@[simp] theorem State.writeData_klen : (s.writeData o v).klen = s.klen := rfl
@[simp] theorem State.writeData_mem : (s.writeData o v).mem = s.mem.writeWord o v := rfl
@[simp] theorem State.writeData_S : (s.writeData o v).S = s.S := rfl
@[simp] theorem State.writeData_L : (s.writeData o v).L = s.L := rfl
@[simp] theorem State.writeData_pend : (s.writeData o v).pend = s.pend := rfl
@[simp] theorem State.writeData_host : (s.writeData o v).host = s.host := rfl
@[simp] theorem State.writeData_reads : (s.writeData o v).reads = s.reads := rfl
@[simp] theorem State.writeData_delay : (s.writeData o v).delay = s.delay := rfl
@[simp] theorem State.writeData_fresh : (s.writeData o v).fresh = s.fresh := rfl

end WriteData

end Sys2Proof.Machine
end

