-- ==== Sys2Proof/Laws/Memory.lean ====
section
/-! SUPPORT. What reading and writing the byte storage do: a read after a write, and that every write keeps the canonical
form. -/

namespace Sys2Proof.Machine

@[simp] theorem Memory.read_nil (o : Nat) : Memory.read [] o = 0 := rfl

theorem Memory.read_cons (c : Host.Cell) (m : Memory) (o : Nat) :
    Memory.read (c :: m) o = if c.1 = o then c.2 else Memory.read m o := rfl

theorem Memory.read_erase (m : Memory) (o p : Nat) :
    (m.erase o).read p = if p = o then 0 else m.read p := by
  induction m with
  | nil => simp [Memory.erase]
  | cons c m ih =>
    simp only [Memory.erase, List.filter_cons] at ih ⊢
    by_cases h : c.1 = o
    · simp only [h, bne_self_eq_false, Bool.false_eq_true, ↓reduceIte, Memory.read_cons] at ih ⊢
      rw [ih]
      split
      · rfl
      · rw [if_neg (fun e => by simp_all)]
    · simp only [bne_iff_ne, ne_eq, h, not_false_eq_true, ↓reduceIte, Memory.read_cons]
      split
      · rw [if_neg (fun e => h (by omega))]
      · exact ih

theorem Memory.read_insert (m : Memory) (o p : Nat) (v : Byte) (h : ∀ c ∈ m, c.1 ≠ o) :
    (m.insert o v).read p = if p = o then v else m.read p := by
  induction m with
  | nil =>
    simp only [Memory.insert, Memory.read_cons, Memory.read_nil]
    by_cases hp : p = o
    · subst hp; simp
    · rw [if_neg (fun e => hp e.symm), if_neg hp]
  | cons c m ih =>
    have hc : c.1 ≠ o := h c (by simp)
    have ih := ih (fun d hd => h d (by simp [hd]))
    simp only [Memory.insert]
    split
    · simp only [Memory.read_cons]
      by_cases hp : p = o
      · subst hp; simp
      · rw [if_neg (fun e => hp e.symm), if_neg hp]
    · simp only [Memory.read_cons, ih]
      by_cases hp : c.1 = p
      · rw [if_pos hp, if_neg (by omega), if_pos hp]
      · rw [if_neg hp, if_neg hp]

theorem Memory.not_mem_erase (m : Memory) (o : Nat) : ∀ c ∈ m.erase o, c.1 ≠ o := by
  intro c hc
  simpa using (List.mem_filter.mp hc).2

/-- A read after a write, for every list of cells. -/
theorem Memory.read_write (m : Memory) (o p : Nat) (v : Byte) :
    (m.write o v).read p = if p = o then v else m.read p := by
  unfold Memory.write
  split
  · next h => rw [Memory.read_erase, h]
  · rw [Memory.read_insert _ _ _ _ (m.not_mem_erase o), Memory.read_erase]
    split <;> rfl

@[simp] theorem Memory.read_write_same (m : Memory) (o : Nat) (v : Byte) : (m.write o v).read o = v := by
  simp [Memory.read_write]

theorem Memory.read_write_other (m : Memory) {o p : Nat} (v : Byte) (h : p ≠ o) :
    (m.write o v).read p = m.read p := by
  simp [Memory.read_write, h]

/-- A sequence of bytes read back from where it was written, and from anywhere else. -/
theorem Memory.read_writeBytes (m : Memory) (o p : Nat) (bs : List Byte) :
    (m.writeBytes o bs).read p = if o ≤ p ∧ p < o + bs.length then bs.getD (p - o) 0 else m.read p := by
  induction bs generalizing m o with
  | nil => rw [if_neg (by simp only [List.length_nil]; omega)]; rfl
  | cons b bs ih =>
    rw [Memory.writeBytes, ih, Memory.read_write]
    simp only [List.length_cons]
    by_cases hp : p = o
    · subst hp
      rw [if_neg (by omega), if_pos rfl, if_pos (by omega), Nat.sub_self, List.getD_cons_zero]
    · by_cases hr : o + 1 ≤ p ∧ p < o + 1 + bs.length
      · have h3 : p - o = (p - (o + 1)) + 1 := by omega
        rw [if_pos hr, if_pos (by omega), h3, List.getD_cons_succ]
      · rw [if_neg hr, if_neg hp, if_neg (by omega)]

theorem Memory.read_writeBytes_outside (m : Memory) {o p : Nat} (bs : List Byte)
    (h : ¬(o ≤ p ∧ p < o + bs.length)) : (m.writeBytes o bs).read p = m.read p := by
  rw [Memory.read_writeBytes, if_neg h]

@[simp] theorem Memory.length_readBytes (m : Memory) (o n : Nat) : (m.readBytes o n).length = n := by
  induction n generalizing o with
  | zero => rfl
  | succ n ih => simp [Memory.readBytes, ih]

theorem Memory.getD_readBytes (m : Memory) (o n k : Nat) :
    (m.readBytes o n).getD k 0 = if k < n then m.read (o + k) else 0 := by
  induction n generalizing o k with
  | zero => simp [Memory.readBytes]
  | succ n ih =>
    cases k with
    | zero => simp [Memory.readBytes]
    | succ k =>
      have := ih (o + 1) k
      simp only [Memory.readBytes, List.getD_cons_succ, this, Nat.add_lt_add_iff_right]
      congr 2; omega

/-- Two storages that agree on a range read the same bytes from it. -/
theorem Memory.readBytes_congr {m m' : Memory} {o n : Nat}
    (h : ∀ p, o ≤ p → p < o + n → m.read p = m'.read p) : m.readBytes o n = m'.readBytes o n := by
  induction n generalizing o with
  | zero => rfl
  | succ n ih =>
    simp only [Memory.readBytes]
    rw [h o (by omega) (by omega), ih (fun p h1 h2 => h p (by omega) (by omega))]

theorem Memory.readBytes_writeBytes_same (m : Memory) (o : Nat) (bs : List Byte) :
    (m.writeBytes o bs).readBytes o bs.length = bs := by
  apply List.ext_getElem (by simp)
  intro k h1 h2
  have h := Memory.getD_readBytes (m.writeBytes o bs) o bs.length k
  rw [if_pos h2, Memory.read_writeBytes, if_pos (by omega)] at h
  simpa [List.getD_eq_getElem?_getD, List.getElem?_eq_getElem h1, List.getElem?_eq_getElem h2] using h

/-- Bytes outside the written ones are read as before. -/
theorem Memory.readBytes_writeBytes_disjoint (m : Memory) {o p n : Nat} (bs : List Byte)
    (h : p + n ≤ o ∨ o + bs.length ≤ p) : (m.writeBytes o bs).readBytes p n = m.readBytes p n := by
  apply Memory.readBytes_congr
  intro q h1 h2
  exact Memory.read_writeBytes_outside _ _ (by omega)

theorem Memory.readBytes_append (m : Memory) (o n k : Nat) :
    m.readBytes o (n + k) = m.readBytes o n ++ m.readBytes (o + n) k := by
  induction n generalizing o with
  | zero => simp [Memory.readBytes]
  | succ n ih =>
    rw [Nat.succ_add, Memory.readBytes, ih, Memory.readBytes, Nat.add_assoc o 1 n, Nat.add_comm 1 n]; rfl

/-! ### The canonical form -/

theorem Memory.mem_insert {m : Memory} {o : Nat} {v : Byte} {c : Host.Cell} :
    c ∈ m.insert o v ↔ c = (o, v) ∨ c ∈ m := by
  induction m with
  | nil => simp [Memory.insert]
  | cons d m ih =>
    simp only [Memory.insert]
    split
    · simp
    · simp only [List.mem_cons, ih]
      constructor
      · rintro (h | h | h) <;> simp [h]
      · rintro (h | h | h) <;> simp [h]

theorem Memory.wf_erase {m : Memory} (h : m.wf) (o : Nat) : (m.erase o).wf :=
  ⟨h.1.filter _, fun c hc => h.2 c (List.mem_filter.mp hc).1⟩

theorem Memory.wf_insert {m : Memory} (h : m.wf) {o : Nat} {v : Byte} (hv : v ≠ 0) (ho : ∀ c ∈ m, c.1 ≠ o) :
    (m.insert o v).wf := by
  refine ⟨?_, fun c hc => ?_⟩
  · have hs := h.1
    clear h
    induction m with
    | nil => simp [Memory.insert]
    | cons d m ih =>
      rw [List.pairwise_cons] at hs
      have hd : d.1 ≠ o := ho d (by simp)
      simp only [Memory.insert]
      split
      · next hlt =>
        refine List.pairwise_cons.mpr ⟨fun c hc => ?_, List.pairwise_cons.mpr hs⟩
        rcases List.mem_cons.mp hc with rfl | hc
        · exact hlt
        · exact Nat.lt_trans hlt (hs.1 c hc)
      · refine List.pairwise_cons.mpr ⟨fun c hc => ?_, ih (fun c hc => ho c (by simp [hc])) hs.2⟩
        rcases Memory.mem_insert.mp hc with rfl | hc
        · show d.1 < o; omega
        · exact hs.1 c hc
  · rcases Memory.mem_insert.mp hc with rfl | hc
    · exact hv
    · exact h.2 c hc

/-- A write keeps the canonical form. -/
theorem Memory.wf_write {m : Memory} (h : m.wf) (o : Nat) (v : Byte) : (m.write o v).wf := by
  unfold Memory.write
  split
  · exact Memory.wf_erase h o
  · next hv => exact Memory.wf_insert (Memory.wf_erase h o) hv (m.not_mem_erase o)

theorem Memory.wf_writeBytes {m : Memory} (h : m.wf) (o : Nat) (bs : List Byte) : (m.writeBytes o bs).wf := by
  induction bs generalizing m o with
  | nil => exact h
  | cons b bs ih => exact ih (Memory.wf_write h o b) (o + 1)

/-- A write lists no cell but its own offset's. -/
theorem Memory.mem_write {m : Memory} {o : Nat} {v : Byte} {c : Host.Cell} (h : c ∈ m.write o v) :
    c.1 = o ∨ c ∈ m := by
  unfold Memory.write at h
  split at h
  · exact .inr (List.mem_filter.mp h).1
  · rcases Memory.mem_insert.mp h with rfl | h
    · exact .inl rfl
    · exact .inr (List.mem_filter.mp h).1

theorem Memory.mem_writeBytes {m : Memory} {o : Nat} {bs : List Byte} {c : Host.Cell} (h : c ∈ m.writeBytes o bs) :
    (o ≤ c.1 ∧ c.1 < o + bs.length) ∨ c ∈ m := by
  induction bs generalizing m o with
  | nil => exact .inr h
  | cons b bs ih =>
    rcases ih h with h | h
    · simp only [List.length_cons]; omega
    · rcases Memory.mem_write h with h | h
      · simp only [List.length_cons]; omega
      · exact .inr h

end Sys2Proof.Machine
end

