-- ==== Sys2Proof/Laws/Word.lean ====
section
/-! SUPPORT. The word primitives in terms of core's bit vectors, and little-endian byte sequences. -/

namespace Sys2Proof.Machine

/-! ### Widths -/

theorem widthBits_pos (w : Width) : 0 < widthBits w := by cases w <;> decide

theorem widthBits_le (w : Width) : widthBits w ≤ 128 := by cases w <;> decide

theorem widthBits_eq (w : Width) : widthBits w = 8 * widthBytes w := by cases w <;> rfl

theorem widthBytes_pos (w : Width) : 0 < widthBytes w := by cases w <;> decide

theorem widthBytes_le (w : Width) : widthBytes w ≤ 16 := by cases w <;> decide

/-! ### Rotates -/

/-- The guarded two-shift form of R152 is core's rotate. -/
theorem rotl_eq_rotateLeft {w : Nat} (x : Word w) (n : Nat) : rotl x n = x.rotateLeft n := by
  simp only [rotl, BitVec.rotateLeft, BitVec.rotateLeftAux]
  split
  · next h =>
    have hz : x >>> w = 0#w := BitVec.ushiftRight_eq_zero (Nat.le_refl w)
    simp [h, hz]
  · rfl

/-- The guarded two-shift form of R153 is core's rotate. -/
theorem rotr_eq_rotateRight {w : Nat} (x : Word w) (n : Nat) : rotr x n = x.rotateRight n := by
  simp only [rotr, BitVec.rotateRight, BitVec.rotateRightAux]
  split
  · next h =>
    have hz : x <<< w = 0#w := BitVec.shiftLeft_eq_zero (Nat.le_refl w)
    simp [h, hz]
  · rfl

/-- Bit `i` of a rotated word is bit `(i - n) mod w` of the word. -/
theorem getLsbD_rotl {w : Nat} (x : Word w) (n i : Nat) (h : i < w) :
    (rotl x n).getLsbD i = x.getLsbD ((i + (w - n % w)) % w) := by
  have hw : 0 < w := by omega
  have hn := Nat.mod_lt n hw
  rw [rotl_eq_rotateLeft, BitVec.getLsbD_rotateLeft]
  simp only [Bool.cond_eq_ite, decide_eq_true_eq]
  split
  · next hi =>
    rw [Nat.mod_eq_of_lt (by omega : i + (w - n % w) < w), Nat.add_comm]
  · next hi =>
    have : i + (w - n % w) = (i - n % w) + w := by omega
    rw [this, Nat.add_mod_right, Nat.mod_eq_of_lt (by omega : i - n % w < w)]
    simp [h]

/-- Bit `i` of a word rotated right is bit `(i + n) mod w` of the word. -/
theorem getLsbD_rotr {w : Nat} (x : Word w) (n i : Nat) (h : i < w) :
    (rotr x n).getLsbD i = x.getLsbD ((i + n % w) % w) := by
  have hw : 0 < w := by omega
  have hn := Nat.mod_lt n hw
  rw [rotr_eq_rotateRight, BitVec.getLsbD_rotateRight]
  simp only [Bool.cond_eq_ite, decide_eq_true_eq]
  split
  · next hi => rw [Nat.mod_eq_of_lt (by omega : i + n % w < w), Nat.add_comm]
  · next hi =>
    have : i + n % w = (i - (w - n % w)) + w := by omega
    rw [this, Nat.add_mod_right, Nat.mod_eq_of_lt (by omega : i - (w - n % w) < w)]
    simp [h]

theorem subW_addW {w : Nat} (x k : Word w) : subW (addW x k) k = x := BitVec.add_sub_cancel x k

theorem addW_subW {w : Nat} (x k : Word w) : addW (subW x k) k = x := BitVec.sub_add_cancel x k

/-! ### Little-endian sequences -/

@[simp] theorem length_leBytes (n v : Nat) : (leBytes n v).length = n := by
  induction n generalizing v with
  | zero => rfl
  | succ n ih => simp [leBytes, ih]

theorem leValue_lt (bs : List Byte) : leValue bs < 256 ^ bs.length := by
  induction bs with
  | nil => simp [leValue]
  | cons b bs ih =>
    have := b.isLt
    simp only [leValue, List.length_cons, Nat.pow_succ]
    omega

/-- Reading back an n-byte little-endian value. -/
theorem leValue_leBytes (n v : Nat) : leValue (leBytes n v) = v % 256 ^ n := by
  induction n generalizing v with
  | zero => simp [leBytes, leValue, Nat.mod_one]
  | succ n ih =>
    have e : 256 ^ (n + 1) = 256 * 256 ^ n := by rw [Nat.pow_succ, Nat.mul_comm]
    simp only [leBytes, leValue, ih, BitVec.toNat_ofNat, Nat.reducePow, e]
    rw [Nat.mod_mul]

/-- The bytes of the value of a byte sequence are the sequence. -/
theorem leBytes_leValue (bs : List Byte) : leBytes bs.length (leValue bs) = bs := by
  induction bs with
  | nil => rfl
  | cons b bs ih =>
    have hb := b.isLt
    simp only [List.length_cons, leBytes, leValue]
    rw [show (b.toNat + 256 * leValue bs) / 256 = leValue bs by omega, ih]
    congr 1
    apply BitVec.eq_of_toNat_eq
    simp only [BitVec.toNat_ofNat]; omega

theorem leValue_append (bs cs : List Byte) :
    leValue (bs ++ cs) = leValue bs + 256 ^ bs.length * leValue cs := by
  induction bs with
  | nil => simp [leValue]
  | cons b bs ih =>
    simp only [List.cons_append, leValue, ih, List.length_cons, Nat.pow_succ, Nat.mul_add]
    rw [Nat.mul_comm (256 ^ bs.length) 256, Nat.mul_assoc]; omega

@[simp] theorem length_zeroBytes (n : Nat) : (zeroBytes n).length = n := List.length_replicate

@[simp] theorem getD_zeroBytes (n k : Nat) : (zeroBytes n).getD k 0 = 0 := by
  simp only [zeroBytes, List.getD_eq_getElem?_getD, List.getElem?_replicate]
  split <;> rfl

@[simp] theorem leValue_zeroBytes (n : Nat) : leValue (zeroBytes n) = 0 := by
  induction n with
  | zero => rfl
  | succ n ih => rw [zeroBytes, List.replicate_succ, leValue, ← zeroBytes, ih]; rfl

/-- Byte `k` of a little-endian sequence is `v[8k+7:8k]`. -/
theorem getD_leBytes (n v k : Nat) :
    (leBytes n v).getD k 0 = if k < n then BitVec.ofNat 8 (v / 256 ^ k) else 0 := by
  induction n generalizing v k with
  | zero => simp [leBytes]
  | succ n ih =>
    cases k with
    | zero => simp [leBytes]
    | succ k =>
      simp only [leBytes, List.getD_cons_succ, ih, Nat.add_lt_add_iff_right]
      rw [Nat.div_div_eq_div_mul, Nat.pow_succ, Nat.mul_comm 256]

/-! ### The 128-bit registers -/

theorem Memory.toNat_read128 (m : Memory) (o : Nat) : (m.read128 o).toNat = leValue (m.readBytes o 16) := by
  have h := leValue_lt (m.readBytes o 16)
  rw [Memory.length_readBytes] at h
  rw [Memory.read128, BitVec.toNat_ofNat, Nat.mod_eq_of_lt (by simpa using h)]

/-- A 128-bit register reads back what was written to it. -/
theorem Memory.read128_write128_same (m : Memory) (o : Nat) (v : Word128) :
    (m.write128 o v).read128 o = v := by
  apply BitVec.eq_of_toNat_eq
  have h := Memory.readBytes_writeBytes_same m o (leBytes 16 v.toNat)
  rw [length_leBytes] at h
  rw [Memory.toNat_read128, Memory.write128, h, leValue_leBytes, Nat.mod_eq_of_lt]
  have := v.isLt
  simpa using this

/-- A 128-bit register is read from its 16 bytes only. -/
theorem Memory.read128_congr {m m' : Memory} {o : Nat}
    (h : ∀ p, o ≤ p → p < o + 16 → m.read p = m'.read p) : m.read128 o = m'.read128 o := by
  rw [Memory.read128, Memory.read128, Memory.readBytes_congr h]

theorem Memory.read_write128_outside (m : Memory) {o p : Nat} (v : Word128) (h : ¬(o ≤ p ∧ p < o + 16)) :
    (m.write128 o v).read p = m.read p :=
  Memory.read_writeBytes_outside _ _ (by simpa using h)

theorem toNat_trunc (w : Width) (x : Word128) : (trunc (widthBits w) x).toNat = x.toNat % 2 ^ widthBits w := by
  simp [trunc]

theorem toNat_zext128 (w : Width) (x : Word (widthBits w)) : (zext128 x).toNat = x.toNat := by
  have h := x.isLt
  have h2 : 2 ^ widthBits w ≤ 2 ^ 128 := Nat.pow_le_pow_right (by decide) (widthBits_le w)
  rw [zext128, BitVec.toNat_setWidth, Nat.mod_eq_of_lt (by omega)]

theorem trunc_zext128 (w : Width) (x : Word (widthBits w)) : trunc (widthBits w) (zext128 x) = x := by
  apply BitVec.eq_of_toNat_eq
  rw [toNat_trunc, toNat_zext128, Nat.mod_eq_of_lt x.isLt]

/-- WZ after a write of WZ. -/
@[simp] theorem State.wz_setWz (w : Width) (z : Word (widthBits w)) (s : State) :
    (s.setWz z).wz = zext128 z := by
  simp [State.wz, State.setWz, Memory.read128_write128_same]

end Sys2Proof.Machine
end

