-- ==== Sys2Proof/Laws/Exec.lean ====
section
/-! SUPPORT. Everything a completion can do, said once: an inversion lemma for each shared operation and for `exec`. -/

namespace Sys2Proof.Machine

/-! ### Completion -/

@[simp] theorem finish_ok (s s' : State) : finish s (.ok s') = .next (s'.complete .ok) := rfl

@[simp] theorem finish_error (s : State) (e : ErrCode) : finish s (.error e) = .next (s.complete e) := rfl

/-- A completion either applies the command's writes or reports an error and writes nothing else. -/
theorem finish_cases {s t : State} {r : Except ErrCode State} (h : finish s r = .next t) :
    (∃ s', r = .ok s' ∧ t = s'.complete .ok) ∨ (∃ e, r = .error e ∧ t = s.complete e) := by
  cases r with
  | ok s' => simp only [finish_ok, Host.Outcome.next.injEq] at h; exact .inl ⟨s', rfl, h.symm⟩
  | error e => simp only [finish_error, Host.Outcome.next.injEq] at h; exact .inr ⟨e, rfl, h.symm⟩

/-- A completion always answers a next state. -/
theorem finish_next (s : State) (r : Except ErrCode State) : ∃ t, finish s r = .next t := by
  cases r with
  | ok s' => exact ⟨_, finish_ok s s'⟩
  | error e => exact ⟨_, finish_error s e⟩

/-! ### The word unit -/

theorem checkWord_ok {w : Width} {x : Word128} (h : x.toNat < 2 ^ widthBits w) :
    checkWord w x = .ok (trunc _ x) := if_pos h

theorem checkWord_error {w : Width} {x : Word128} (h : ¬x.toNat < 2 ^ widthBits w) :
    checkWord w x = .error .widthError := if_neg h

theorem wordBinary_ok {w : Width} {v2 : Operand2} {f} {s : State} (hx : s.wx.toNat < 2 ^ widthBits w)
    (hy : (s.operand2 v2).toNat < 2 ^ widthBits w) :
    wordBinary w v2 f s = .ok (s.setWz (f (trunc _ s.wx) (trunc _ (s.operand2 v2)))) := by
  simp [wordBinary, checkWord_ok hx, checkWord_ok hy]

theorem wordBinary_error {w : Width} {v2 : Operand2} {f} {s : State}
    (h : ¬(s.wx.toNat < 2 ^ widthBits w ∧ (s.operand2 v2).toNat < 2 ^ widthBits w)) :
    wordBinary w v2 f s = .error .widthError := by
  by_cases hx : s.wx.toNat < 2 ^ widthBits w
  · have hy : ¬(s.operand2 v2).toNat < 2 ^ widthBits w := fun hy => h ⟨hx, hy⟩
    simp [wordBinary, checkWord_ok hx, checkWord_error hy]
  · simp [wordBinary, checkWord_error hx]

theorem wordRotate_ok {w : Width} {v2 : Operand2} {f} {s : State} (hx : s.wx.toNat < 2 ^ widthBits w) :
    wordRotate w v2 f s = .ok (s.setWz (f (trunc _ s.wx) (s.operand2 v2).toNat)) := by
  simp [wordRotate, checkWord_ok hx]

theorem wordRotate_error {w : Width} {v2 : Operand2} {f} {s : State} (hx : ¬s.wx.toNat < 2 ^ widthBits w) :
    wordRotate w v2 f s = .error .widthError := by
  simp [wordRotate, checkWord_error hx]

/-- All that a binary word-unit command can do: write WZ, or end with WIDTH_ERROR. -/
theorem wordBinary_cases (w : Width) (v2 : Operand2) (f) (s : State) :
    (∃ z : Word (widthBits w), wordBinary w v2 f s = .ok (s.setWz z)) ∨ wordBinary w v2 f s = .error .widthError := by
  by_cases h : s.wx.toNat < 2 ^ widthBits w ∧ (s.operand2 v2).toNat < 2 ^ widthBits w
  · exact .inl ⟨_, wordBinary_ok h.1 h.2⟩
  · exact .inr (wordBinary_error h)

/-- All that a rotate can do: write WZ, or end with WIDTH_ERROR. -/
theorem wordRotate_cases (w : Width) (v2 : Operand2) (f) (s : State) :
    (∃ z : Word (widthBits w), wordRotate w v2 f s = .ok (s.setWz z)) ∨ wordRotate w v2 f s = .error .widthError := by
  by_cases h : s.wx.toNat < 2 ^ widthBits w
  · exact .inl ⟨_, wordRotate_ok h⟩
  · exact .inr (wordRotate_error h)

/-! ### The engine -/

theorem configured_ok {s : State} {a : Active} (hc : s.cfgValid = true) (ha : s.active? = some a) :
    s.configured = .ok a := by
  simp [State.configured, hc, ha]

theorem configured_cases (s : State) :
    (∃ a, s.configured = .ok a ∧ s.cfgValid = true ∧ s.active? = some a) ∨ s.configured = .error .notConfigured := by
  unfold State.configured
  split
  · next hc =>
    split
    · next a ha => exact .inl ⟨a, rfl, hc, ha⟩
    · exact .inr rfl
  · exact .inr rfl

/-- RoundKeys answers the cached table, the expansion of the current key, or KEY_LENGTH_ERROR. -/
theorem roundKeys_cases (s : State) (a : Active) :
    (s.keyValid = true ∧ s.roundKeys a = .ok (s.cachedKey a)) ∨
    (s.keyValid = false ∧ s.klen.toNat = a.b ∧ s.roundKeys a = .ok (s.expandedKey a)) ∨
    (s.keyValid = false ∧ s.klen.toNat ≠ a.b ∧ s.roundKeys a = .error .keyLengthError) := by
  by_cases hk : s.keyValid = true
  · exact .inl ⟨hk, by simp [State.roundKeys, hk]⟩
  · have hk : s.keyValid = false := by simpa using hk
    by_cases hl : s.klen.toNat = a.b
    · exact .inr (.inl ⟨hk, hl, by simp [State.roundKeys, State.expandChecked, hk, hl]⟩)
    · exact .inr (.inr ⟨hk, hl, by simp [State.roundKeys, State.expandChecked, hk, hl]⟩)

/-- All that a block command can do. -/
theorem blockCommand_cases (f : {w : Nat} → List (Word w) → Nat → Word w × Word w → Word w × Word w) (len : Nat)
    (s : State) :
    (∃ a, s.cfgValid = true ∧ s.active? = some a ∧ len = 2 * a.u ∧
      ((s.keyValid = true ∧
          blockCommand f len s = .ok (s.setBout a.w (f (s.cachedKey a) a.r (s.blockIn a.w)))) ∨
       (s.keyValid = false ∧ s.klen.toNat = a.b ∧
          blockCommand f len s =
            .ok ((s.setBout a.w (f (s.expandedKey a) a.r (s.blockIn a.w))).fillTable (s.expandedKey a))))) ∨
    (∃ e, e ≠ .ok ∧ blockCommand f len s = .error e) := by
  rcases configured_cases s with ⟨a, hc, hv, ha⟩ | hc
  · rcases roundKeys_cases s a with ⟨hk, hr⟩ | ⟨hk, hl, hr⟩ | ⟨hk, hl, hr⟩
    · by_cases h : len = 2 * a.u
      · exact .inl ⟨a, hv, ha, h, .inl ⟨hk, by simp [blockCommand, hc, hr, h, hk]⟩⟩
      · exact .inr ⟨.bufferBoundsError, by simp, by simp [blockCommand, hc, hr, h]⟩
    · by_cases h : len = 2 * a.u
      · exact .inl ⟨a, hv, ha, h, .inr ⟨hk, hl, by simp [blockCommand, hc, hr, h, hk]⟩⟩
      · exact .inr ⟨.bufferBoundsError, by simp, by simp [blockCommand, hc, hr, h]⟩
    · exact .inr ⟨.keyLengthError, by simp, by simp [blockCommand, hc, hr]⟩
  · exact .inr ⟨.notConfigured, by simp, by simp [blockCommand, hc]⟩

/-! ### exec -/

/-- What a completion with a next state has done, for every command. -/
inductive Executed (s t : State) : Instr → Prop where
  /-- An error code and nothing else (R136). -/
  | failed {i : Instr} (e : ErrCode) (he : e ≠ .ok) (ht : t = s.complete e) : Executed s t i
  /-- NOP (R140). -/
  | nop (ht : t = s.complete .ok) : Executed s t .nop
  /-- CONFIGURE (R183). -/
  | configure (hl : s.configLegal = true)
      (ht : t = { s with cfgValid := true, keyValid := false }.complete .ok) : Executed s t .configure
  /-- KEYEXP (R190). -/
  | keyexp (a : Active) (hv : s.cfgValid = true) (ha : s.active? = some a) (hk : s.klen.toNat = a.b)
      (ht : t = (s.fillTable (s.expandedKey a)).complete .ok) : Executed s t .keyexp
  /-- KEYCLR (R192). -/
  | keyclr (ht : t = s.clearKey.complete .ok) : Executed s t .keyclr
  /-- A block command with the cached table (R216, R217). -/
  | cached {i : Instr} {len : Nat} (hi : i = .encrypt len ∨ i = .decrypt len) (a : Active) (hv : s.cfgValid = true)
      (ha : s.active? = some a) (hk : s.keyValid = true) (x : Word (widthBits a.w) × Word (widthBits a.w))
      (ht : t = (s.setBout a.w x).complete .ok) : Executed s t i
  /-- A block command that expanded the key (R216, R217). -/
  | expanded {i : Instr} {len : Nat} (hi : i = .encrypt len ∨ i = .decrypt len) (a : Active) (hv : s.cfgValid = true)
      (ha : s.active? = some a) (hk : s.keyValid = false) (hl : s.klen.toNat = a.b)
      (x : Word (widthBits a.w) × Word (widthBits a.w))
      (ht : t = ((s.setBout a.w x).fillTable (s.expandedKey a)).complete .ok) : Executed s t i
  /-- A word-unit command (R154). -/
  | word {i : Instr} (w : Width) (hi : i = .wbuild w ∨ (∃ v2, i = .wadd w v2) ∨ (∃ v2, i = .wsub w v2) ∨
        (∃ v2, i = .wrotl w v2) ∨ (∃ v2, i = .wrotr w v2) ∨ (∃ v2, i = .wand w v2) ∨ (∃ v2, i = .wor w v2) ∨
        (∃ v2, i = .wxor w v2) ∨ (∃ v2, i = .weq w v2))
      (z : Word (widthBits w)) (ht : t = (s.setWz z).complete .ok) : Executed s t i

theorem executed_binary {s t : State} {w : Width} {v2 : Operand2} {f} {i : Instr}
    (hi : i = .wbuild w ∨ (∃ v2, i = .wadd w v2) ∨ (∃ v2, i = .wsub w v2) ∨
        (∃ v2, i = .wrotl w v2) ∨ (∃ v2, i = .wrotr w v2) ∨ (∃ v2, i = .wand w v2) ∨ (∃ v2, i = .wor w v2) ∨
        (∃ v2, i = .wxor w v2) ∨ (∃ v2, i = .weq w v2))
    (h : finish s (wordBinary w v2 f s) = .next t) : Executed s t i := by
  rcases wordBinary_cases w v2 f s with ⟨z, hz⟩ | hz <;> rw [hz] at h <;>
    simp only [finish_ok, finish_error, Host.Outcome.next.injEq] at h
  · exact .word w hi z h.symm
  · exact .failed _ (by simp) h.symm

theorem executed_rotate {s t : State} {w : Width} {v2 : Operand2} {f} {i : Instr}
    (hi : i = .wbuild w ∨ (∃ v2, i = .wadd w v2) ∨ (∃ v2, i = .wsub w v2) ∨
        (∃ v2, i = .wrotl w v2) ∨ (∃ v2, i = .wrotr w v2) ∨ (∃ v2, i = .wand w v2) ∨ (∃ v2, i = .wor w v2) ∨
        (∃ v2, i = .wxor w v2) ∨ (∃ v2, i = .weq w v2))
    (h : finish s (wordRotate w v2 f s) = .next t) : Executed s t i := by
  rcases wordRotate_cases w v2 f s with ⟨z, hz⟩ | hz <;> rw [hz] at h <;>
    simp only [finish_ok, finish_error, Host.Outcome.next.injEq] at h
  · exact .word w hi z h.symm
  · exact .failed _ (by simp) h.symm

theorem executed_block {s t : State} {i : Instr} {len : Nat}
    (f : {w : Nat} → List (Word w) → Nat → Word w × Word w → Word w × Word w)
    (hi : i = .encrypt len ∨ i = .decrypt len) (h : finish s (blockCommand f len s) = .next t) : Executed s t i := by
  rcases blockCommand_cases f len s with ⟨a, hv, ha, hlen, ⟨hk, hz⟩ | ⟨hk, hl, hz⟩⟩ | ⟨e, he, hz⟩ <;> rw [hz] at h <;>
    simp only [finish_ok, finish_error, Host.Outcome.next.injEq] at h
  · exact .cached hi a hv ha hk _ h.symm
  · exact .expanded hi a hv ha hk hl _ h.symm
  · exact .failed e he h.symm

/-- The inversion lemma of `exec`. -/
theorem exec_cases {i : Instr} {s t : State} (h : exec i s = .next t) : Executed s t i := by
  cases i with
  | nop =>
    simp only [exec, execNop, finish_ok, Host.Outcome.next.injEq] at h
    exact .nop h.symm
  | configure =>
    simp only [exec, execConfigure] at h
    split at h <;> simp only [finish_ok, finish_error, Host.Outcome.next.injEq] at h
    · next hl => exact .configure hl h.symm
    · exact .failed _ (by simp) h.symm
  | keyexp =>
    simp only [exec, execKeyexp] at h
    rcases configured_cases s with ⟨a, hc, hv, ha⟩ | hc <;> rw [hc] at h
    · by_cases hk : s.klen.toNat = a.b
      · simp only [State.expandChecked, hk, ↓reduceIte, finish_ok, Host.Outcome.next.injEq] at h
        exact .keyexp a hv ha hk h.symm
      · simp only [State.expandChecked, hk, ↓reduceIte, finish_error, Host.Outcome.next.injEq] at h
        exact .failed _ (by simp) h.symm
    · simp only [finish_error, Host.Outcome.next.injEq] at h
      exact .failed _ (by simp) h.symm
  | encrypt len => exact executed_block encryptWords (.inl rfl) h
  | decrypt len => exact executed_block decryptWords (.inr rfl) h
  | keyclr =>
    simp only [exec, execKeyclr, finish_ok, Host.Outcome.next.injEq] at h
    exact .keyclr h.symm
  | wbuild w =>
    simp only [exec, execWbuild, finish_ok, Host.Outcome.next.injEq] at h
    exact .word w (.inl rfl) _ h.symm
  | wadd w v2 => exact executed_binary (by simp) h
  | wsub w v2 => exact executed_binary (by simp) h
  | wrotl w v2 => exact executed_rotate (by simp) h
  | wrotr w v2 => exact executed_rotate (by simp) h
  | wand w v2 => exact executed_binary (by simp) h
  | wor w v2 => exact executed_binary (by simp) h
  | wxor w v2 => exact executed_binary (by simp) h
  | weq w v2 => exact executed_binary (by simp) h

end Sys2Proof.Machine
end

