-- ==== Sys2Proof/Laws/Step.lean ====
section
/-! SUPPORT. Everything a host access and a step can do, said once. -/

namespace Sys2Proof.Machine

/-! ### The window -/

/-- A register of the map lies where its row says. -/
theorem registerAt_row {o : Nat} {r : WindowReg} (h : registerAt o = some r) :
    ∃ row ∈ registerMap, row.reg = r ∧ row.lo ≤ o ∧ o < row.lo + row.size := by
  simp only [registerAt, Option.map_eq_some_iff] at h
  obtain ⟨row, hf, hr⟩ := h
  have hp := List.find?_some hf
  simp only [Bool.and_eq_true, decide_eq_true_eq] at hp
  exact ⟨row, List.mem_of_find?_eq_some hf, hr, hp.1, hp.2⟩

/-- Where the byte-organised registers are. -/
theorem registerAt_range {o : Nat} {r : WindowReg} (h : registerAt o = some r) :
    (r = .id ∧ o < 0x004) ∨ (r = .cmd ∧ 0x004 ≤ o ∧ o < 0x008) ∨ (r = .status ∧ 0x008 ≤ o ∧ o < 0x00C) ∨
    (r = .ctrl ∧ 0x00C ≤ o ∧ o < 0x010) ∨ (r = .cfg ∧ 0x010 ≤ o ∧ o < 0x014) ∨ (r = .klen ∧ 0x014 ≤ o ∧ o < 0x018) ∨
    (r = .pOvr ∧ 0x020 ≤ o ∧ o < 0x030) ∨ (r = .qOvr ∧ 0x030 ≤ o ∧ o < 0x040) ∨ (r = .bin ∧ 0x040 ≤ o ∧ o < 0x060) ∨
    (r = .bout ∧ 0x060 ≤ o ∧ o < 0x080) ∨ (r = .wx ∧ 0x080 ≤ o ∧ o < 0x090) ∨ (r = .wy ∧ 0x090 ≤ o ∧ o < 0x0A0) ∨
    (r = .wz ∧ 0x0A0 ≤ o ∧ o < 0x0B0) ∨ (r = .key ∧ 0x100 ≤ o ∧ o < 0x200) := by
  obtain ⟨row, hm, hr, hlo, hhi⟩ := registerAt_row h
  simp only [registerMap, List.mem_cons, List.not_mem_nil, or_false] at hm
  rcases hm with rfl | rfl | rfl | rfl | rfl | rfl | rfl | rfl | rfl | rfl | rfl | rfl | rfl | rfl <;>
    simp only at hr hlo hhi <;> subst hr <;> simp <;> omega

/-- An offset inside the window. -/
theorem offsetOf_base_add {o : Nat} (h : o < 0x400) : offsetOf (Config.base + o) = some o := by
  unfold offsetOf Config.windowSize
  rw [if_pos (by omega), Nat.add_sub_cancel_left]

theorem offsetOf_eq_some {addr o : Nat} (h : offsetOf addr = some o) : addr = Config.base + o ∧ o < 0x400 := by
  unfold offsetOf Config.windowSize at h
  split at h
  · simp only [Option.some.injEq] at h; omega
  · simp at h

theorem hostRead_cases (o : Nat) (s : State) :
    (readError o = true ∧ hostRead o s = (s.returnData 0).accessError) ∨
    (readError o = false ∧ hostRead o s = s.returnData (s.windowWord o)) := by
  unfold hostRead
  cases h : readError o <;> simp

/-- Which reads of the window are access errors, in the numbers of R75 and R79. -/
theorem readError_iff : ∀ o, o < 0x400 → (readError o = true ↔ (o % 4 ≠ 0 ∨ isReserved o)) := by
  unfold isReserved
  decide +kernel

/-- Which writes to the window are access errors, in the numbers of R75 and R79. -/
theorem writeError_iff : ∀ o, o < 0x400 → (writeError o = true ↔ (o % 4 ≠ 0 ∨ isReserved o ∨ isReadOnly o)) := by
  unfold isReserved isReadOnly
  decide +kernel

/-- An accepted write follows its register's rule. -/
theorem hostWrite_register {o : Nat} {r : WindowReg} {v : Word32} {s : State} (he : writeError o = false)
    (hr : registerAt o = some r) (hb : s.busy = false ∨ r = .status ∨ r = .ctrl) :
    hostWrite o v s = s.writeRegister r o v := by
  unfold hostWrite
  rw [he, hr]
  rcases hb with h | h | h <;> simp [h]

/-- What a host write has done. -/
inductive Written (o : Nat) (v : Word32) (s t : State) : Prop where
  /-- An access error (R79). -/
  | accessError (he : writeError o = true) (ht : t = s.accessError) : Written o v s t
  /-- Dropped as busy (R280). -/
  | dropped (he : writeError o = false) (hb : s.busy = true) (hs : registerAt o ≠ some .status)
      (hc : registerAt o ≠ some .ctrl) (ht : t = s.dropWrite) : Written o v s t
  /-- A command accepted (R130). -/
  | cmd (ho : o = 0x004) (hb : s.busy = false) (ht : t = s.accept v) : Written o v s t
  /-- STATUS (R32). -/
  | status (ho : o = 0x008) (ht : t = s.writeStatus v) : Written o v s t
  /-- CTRL.IE (R33). -/
  | ie (ho : o = 0x00C) (hv : v.getLsbD 1 = false) (ht : t = { s with ie := v.getLsbD 0 }) :
      Written o v s t
  /-- CTRL.SRST (R272). -/
  | srst (ho : o = 0x00C) (hv : v.getLsbD 1 = true) (ht : t = s.hardReset) : Written o v s t
  /-- CFG (R39). -/
  | cfg (ho : o = 0x010) (hb : s.busy = false) (ht : t = s.writeCfg v) : Written o v s t
  /-- KLEN (R40). -/
  | klen (ho : o = 0x014) (hb : s.busy = false) (ht : t = s.writeKlen v) : Written o v s t
  /-- P_OVR or Q_OVR (R41). -/
  | override (ha : o % 4 = 0) (hr : 0x020 ≤ o ∧ o < 0x040) (hb : s.busy = false) (ht : t = s.writeOverride o v) :
      Written o v s t
  /-- KEY (R42). -/
  | key (ha : o % 4 = 0) (hr : 0x100 ≤ o ∧ o < 0x200) (hb : s.busy = false) (ht : t = s.writeKey o v) : Written o v s t
  /-- BIN, WX or WY (R43, R45). -/
  | data (ha : o % 4 = 0) (hr : (0x040 ≤ o ∧ o < 0x060) ∨ (0x080 ≤ o ∧ o < 0x0A0)) (hb : s.busy = false)
      (ht : t = s.writeData o v) : Written o v s t

theorem readError_of_writeError {o : Nat} (h : writeError o = false) :
    o % 4 = 0 ∧ ∃ r, registerAt o = some r ∧ r ≠ .id ∧ r ≠ .bout ∧ r ≠ .wz := by
  simp only [writeError, readError, Bool.or_eq_false_iff, bne_eq_false_iff_eq, beq_eq_false_iff_ne, ne_eq] at h
  obtain ⟨⟨⟨⟨ha, hn⟩, h1⟩, h2⟩, h3⟩ := h
  cases hr : registerAt o with
  | none => simp [hr] at hn
  | some r =>
    refine ⟨ha, r, rfl, ?_, ?_, ?_⟩ <;> rintro rfl <;> simp_all

/-- The inversion lemma of `hostWrite`. -/
theorem hostWrite_cases (o : Nat) (v : Word32) (s : State) : Written o v s (hostWrite o v s) := by
  unfold hostWrite
  cases he : writeError o with
  | true => exact .accessError he rfl
  | false =>
    obtain ⟨ha, r, hr, h1, h2, h3⟩ := readError_of_writeError he
    have hrange := registerAt_range hr
    simp only [Bool.false_eq_true, ↓reduceIte, hr]
    by_cases hd : (s.busy && r != .status && r != .ctrl) = true
    · rw [if_pos hd]
      simp only [Bool.and_eq_true, bne_iff_ne] at hd
      exact .dropped he hd.1.1 (by simp [hr, hd.1.2]) (by simp [hr, hd.2]) rfl
    · rw [if_neg hd]
      have hb : r ≠ .status → r ≠ .ctrl → s.busy = false := by
        intro hs hc
        simpa [hs, hc] using hd
      cases r with
      | id => exact absurd rfl h1
      | bout => exact absurd rfl h2
      | wz => exact absurd rfl h3
      | cmd => exact .cmd (by simp at hrange; omega) (hb (by simp) (by simp)) rfl
      | status => exact .status (by simp at hrange; omega) rfl
      | ctrl =>
        simp only [State.writeRegister, State.writeCtrl]
        split
        · next hv => exact .srst (by simp at hrange; omega) hv rfl
        · next hv => exact .ie (by simp at hrange; omega) (by simpa using hv) rfl
      | cfg => exact .cfg (by simp at hrange; omega) (hb (by simp) (by simp)) rfl
      | klen => exact .klen (by simp at hrange; omega) (hb (by simp) (by simp)) rfl
      | pOvr => exact .override ha (by simp at hrange; omega) (hb (by simp) (by simp)) rfl
      | qOvr => exact .override ha (by simp at hrange; omega) (hb (by simp) (by simp)) rfl
      | bin => exact .data ha (by simp at hrange; omega) (hb (by simp) (by simp)) rfl
      | wx => exact .data ha (by simp at hrange; omega) (hb (by simp) (by simp)) rfl
      | wy => exact .data ha (by simp at hrange; omega) (hb (by simp) (by simp)) rfl
      | key => exact .key ha (by simp at hrange; omega) (hb (by simp) (by simp)) rfl

/-! ### The host's turn -/

/-- What one host operation has done. -/
inductive Performed (s t : State) : HostOp → Prop where
  /-- A read (R72). -/
  | read (o : Nat) (ho : o < 0x400) (ht : t = hostRead o s) : Performed s t (.read (Config.base + o))
  /-- A write (R73). -/
  | write (o : Nat) (v : Word32) (ho : o < 0x400) (ht : t = hostWrite o v s) : Performed s t (.write (Config.base + o) v)
  /-- One turn of the polling loop (R112). -/
  | wait (ht : t = (if s.busy then { hostRead 0x008 s with host := .wait :: s.host } else hostRead 0x008 s)) :
      Performed s t .wait
  /-- The reset input (R270). -/
  | reset (ht : t = s.hardReset) : Performed s t .reset

@[simp] theorem hostRead_host (o : Nat) (s : State) : (hostRead o s).host = s.host := by
  rcases hostRead_cases o s with ⟨_, h⟩ | ⟨_, h⟩ <;> simp [h]

theorem perform_cases {op : HostOp} {s t : State} (h : perform op s = .next t) : Performed s t op := by
  cases op with
  | read addr =>
    simp only [perform] at h
    split at h
    · next o ho =>
      obtain ⟨rfl, hlt⟩ := offsetOf_eq_some ho
      simp only [Host.Outcome.next.injEq] at h
      exact .read o hlt h.symm
    · simp at h
  | write addr v =>
    simp only [perform] at h
    split at h
    · next o ho =>
      obtain ⟨rfl, hlt⟩ := offsetOf_eq_some ho
      simp only [Host.Outcome.next.injEq] at h
      exact .write o v hlt h.symm
    · simp at h
  | wait =>
    simp only [perform, Host.Outcome.next.injEq, hostRead_host] at h
    exact .wait h.symm
  | reset =>
    simp only [perform, Host.Outcome.next.injEq] at h
    exact .reset h.symm

/-- The host's turn is a stutter, or its next operation. -/
theorem hostTurn_cases {s t : State} (h : hostTurn s = .next t) :
    (s.host = [] ∧ t = s) ∨
    (∃ op rest, s.host = op :: rest ∧ Performed { s with host := rest, delay := s.delay - 1 } t op) := by
  unfold hostTurn at h
  split at h
  · next hh =>
    simp only [Host.Outcome.next.injEq] at h
    exact .inl ⟨hh, h.symm⟩
  · next op rest hh => exact .inr ⟨op, rest, hh, perform_cases h⟩

/-! ### The step -/

/-- What a step has done. -/
inductive Stepped (s t : State) : Prop where
  /-- A legal command completed. -/
  | executed (i : Instr) (hd : s.completionDue = true) (hf : decode s.pend = .ok i) (he : Executed s t i) : Stepped s t
  /-- An illegal word completed (R134). -/
  | illegal (e : DecodeError) (hd : s.completionDue = true) (hf : decode s.pend = .error e)
      (ht : t = s.complete .illegalCommand) : Stepped s t
  /-- Nothing to do (R260). -/
  | idle (hd : s.completionDue = false) (hh : s.host = []) (ht : t = s) : Stepped s t
  /-- A host operation. -/
  | access (op : HostOp) (rest : List HostOp) (hd : s.completionDue = false) (hh : s.host = op :: rest)
      (hp : Performed { s with host := rest, delay := s.delay - 1 } t op) : Stepped s t

/-- The step in which the host reads. -/
theorem step_of_hostReads {s : State} {o : Nat} {rest : List HostOp} (h : HostReads s o rest) :
    step s = .next (hostRead o { s with host := rest, delay := s.delay - 1 }) := by
  obtain ⟨hd, hh, ho⟩ := h
  simp [step, hd, hostTurn, hh, perform, offsetOf_base_add ho]

/-- The step in which the host writes. -/
theorem step_of_hostWrites {s : State} {o : Nat} {v : Word32} {rest : List HostOp} (h : HostWrites s o v rest) :
    step s = .next (hostWrite o v { s with host := rest, delay := s.delay - 1 }) := by
  obtain ⟨hd, hh, ho⟩ := h
  simp [step, hd, hostTurn, hh, perform, offsetOf_base_add ho]

/-- The inversion lemma of `step`. -/
theorem step_cases {s t : State} (h : step s = .next t) : Stepped s t := by
  unfold step at h
  cases hd : s.completionDue with
  | true =>
    simp only [hd, ↓reduceIte, State.fetch] at h
    split at h
    · next i hf => exact .executed i hd hf (exec_cases h)
    · next e hf =>
      simp only [Host.Outcome.next.injEq] at h
      exact .illegal e hd hf h.symm
  | false =>
    simp only [hd, Bool.false_eq_true, ↓reduceIte] at h
    rcases hostTurn_cases h with ⟨hh, ht⟩ | ⟨op, rest, hh, hp⟩
    · exact .idle hd hh ht
    · exact .access op rest hd hh hp

/-- A completion is due only while BUSY. -/
theorem busy_of_completionDue {s : State} (h : s.completionDue = true) : s.busy = true := by
  simp only [State.completionDue, Bool.and_eq_true] at h
  exact h.1

end Sys2Proof.Machine
end

