-- ==== Sys2Proof/Laws/Engine.lean ====
section
/-! SUPPORT. The engine's shared operations, said once: sizes of the key schedule and of a block, what each of them depends on,
one lemma for each outcome of a block command, and what every completion does to STATUS and to the inputs. -/

namespace Sys2Proof.Machine

/-! ### Sizes -/

@[simp] theorem length_seedTable {w : Nat} (P Q : Word w) (n : Nat) : (seedTable P Q n).length = n := by
  induction n generalizing P with
  | zero => rfl
  | succ n ih => simp [seedTable, ih]

@[simp] theorem length_mixLoop_S {w : Nat} (t c n : Nat) (m : Mix w) : (mixLoop t c n m).S.length = m.S.length := by
  induction n generalizing m with
  | zero => rfl
  | succ n ih => simp [mixLoop, ih, mixStep]

@[simp] theorem length_keyExpand {w : Nat} (K : List Byte) (r : Nat) (P Q : Word w) :
    (keyExpand K r P Q).length = 2 * (r + 1) := by
  simp [keyExpand]

theorem length_expandedKey (s : State) (a : Active) : (s.expandedKey a).length = a.t := length_keyExpand _ _ _ _

theorem length_blockBytes (w : Width) (x : Word (widthBits w) × Word (widthBits w)) : (blockBytes w x).length = 32 := by
  have := widthBytes_le w
  simp [blockBytes]
  omega

/-! ### What the active configuration and the expanded key depend on -/

theorem active_bounds {s : State} {a : Active} (h : s.active? = some a) : a.b < 256 ∧ a.r < 256 := by
  simp only [State.active?] at h
  split at h
  · simp at h
  · simp only [Option.some.injEq] at h
    subst h
    exact ⟨s.cfg.keyBytes.isLt, s.cfg.rounds.isLt⟩

/-- CFG, P_OVR and Q_OVR only (R55). -/
theorem active_congr {s t : State} (hc : t.cfg = s.cfg)
    (hm : ∀ o, 0x20 ≤ o → o < 0x40 → t.mem.read o = s.mem.read o) : t.active? = s.active? := by
  have h1 : t.pOvr = s.pOvr := Memory.read128_congr (fun p h1 h2 => hm p (by omega) (by omega))
  have h2 : t.qOvr = s.qOvr := Memory.read128_congr (fun p h1 h2 => hm p (by omega) (by omega))
  simp only [State.active?, hc, h1, h2]

/-- CFG, P_OVR and Q_OVR only (R183). -/
theorem configLegal_congr {s t : State} (hc : t.cfg = s.cfg)
    (hm : ∀ o, 0x20 ≤ o → o < 0x40 → t.mem.read o = s.mem.read o) : t.configLegal = s.configLegal := by
  have h1 : t.pOvr = s.pOvr := Memory.read128_congr (fun p h1 h2 => hm p (by omega) (by omega))
  have h2 : t.qOvr = s.qOvr := Memory.read128_congr (fun p h1 h2 => hm p (by omega) (by omega))
  simp only [State.configLegal, hc, h1, h2]

/-- The first `b` bytes of KEY only (R185). -/
theorem expandedKey_congr {s t : State} {a : Active}
    (hm : ∀ o, 0x100 ≤ o → o < 0x100 + a.b → t.mem.read o = s.mem.read o) : t.expandedKey a = s.expandedKey a := by
  simp only [State.expandedKey, State.keyBytes]
  rw [Memory.readBytes_congr (fun p h1 h2 => hm p h1 h2)]

/-- A fresh cache is the expanded key (R27, R215). -/
theorem cachedKey_of_cacheFresh {s : State} {a : Active} (hf : s.CacheFresh) (hk : s.keyValid = true)
    (ha : s.active? = some a) :
    s.cachedKey a = s.expandedKey a ∧ s.klen.toNat = a.b ∧ s.S.take a.t = (s.expandedKey a).map zext128 := by
  obtain ⟨a', ha', hl, hS⟩ := hf hk
  rw [ha] at ha'
  cases ha'
  refine ⟨?_, hl, hS⟩
  rw [State.cachedKey, hS, List.map_map]
  exact (List.map_congr_left (g := id) (fun x _ => trunc_zext128 _ x)).trans (List.map_id _)

/-! ### The outcomes of a block command -/

section
variable (f : {w : Nat} → List (Word w) → Nat → Word w × Word w → Word w × Word w) {s : State} {a : Active} {len : Nat}

theorem blockCommand_cached {T : List (Word (widthBits a.w))} (hc : s.configured = .ok a) (hr : s.roundKeys a = .ok T)
    (hl : len = 2 * a.u) (hk : s.keyValid = true) :
    blockCommand f len s = .ok (s.setBout a.w (f T a.r (s.blockIn a.w))) := by
  simp [blockCommand, hc, hr, hl, hk]

theorem blockCommand_filled {T : List (Word (widthBits a.w))} (hc : s.configured = .ok a) (hr : s.roundKeys a = .ok T)
    (hl : len = 2 * a.u) (hk : s.keyValid = false) :
    blockCommand f len s = .ok ((s.setBout a.w (f T a.r (s.blockIn a.w))).fillTable T) := by
  simp [blockCommand, hc, hr, hl, hk]

theorem blockCommand_badLength {T : List (Word (widthBits a.w))} (hc : s.configured = .ok a)
    (hr : s.roundKeys a = .ok T) (hl : len ≠ 2 * a.u) : blockCommand f len s = .error .bufferBoundsError := by
  simp [blockCommand, hc, hr, hl]

theorem blockCommand_noKeys {e : ErrCode} (hc : s.configured = .ok a) (hr : s.roundKeys a = .error e) :
    blockCommand f len s = .error e := by
  simp [blockCommand, hc, hr]

theorem blockCommand_notConfigured {e : ErrCode} (hc : s.configured = .error e) : blockCommand f len s = .error e := by
  simp [blockCommand, hc]

end

/-- The table after a key expansion (R187, R190). -/
theorem take_fillTable {w : Nat} (T : List (Word w)) (s : State) :
    (s.fillTable T).S.take T.length = T.map zext128 := by
  simp [State.fillTable_S]

theorem drop_fillTable {w : Nat} (T : List (Word w)) (s : State) :
    (s.fillTable T).S.drop T.length = s.S.drop T.length := by
  simp [State.fillTable_S]

/-! ### Words and completions -/

theorem xor_xor_self {w : Nat} (a b : Word w) : (a ^^^ b) ^^^ b = a := by
  rw [BitVec.xor_assoc]
  simp

/-- What a command completes with (R132). -/
theorem executed_status {s t : State} {i : Instr} (h : Executed s t i) : t.busy = false ∧ t.done = true := by
  cases h <;> subst_vars <;> exact ⟨rfl, rfl⟩

/-- What no command writes (R137). -/
theorem executed_keeps {s t : State} {i : Instr} (h : Executed s t i) : KeepsInputs s t := by
  cases h <;> subst_vars <;> exact ⟨rfl, rfl, rfl, rfl, rfl, rfl, rfl, rfl, rfl⟩

end Sys2Proof.Machine
end

