-- ==== Sys2Proof/Laws/PerInstr.lean ====
section
/-! SUPPORT. Per-instruction facts about the encoding, one lemma per constructor of `Instr`: the OP field of a command's word
is the command's opcode, and the reserved fields are 0. -/

namespace Sys2Proof

/-- Every field of CMD32 reads back from a word made of fields that fit. -/
theorem slice_encodeFields {op ws isrc imm : Nat} (h : op < 256) (hw : ws < 8) (hs : isrc < 2) (hi : imm < 256) :
    slice (encodeFields op ws isrc imm) 7 0 = op ∧ slice (encodeFields op ws isrc imm) 10 8 = ws ∧
      slice (encodeFields op ws isrc imm) 11 11 = isrc ∧ slice (encodeFields op ws isrc imm) 23 16 = imm ∧
      slice (encodeFields op ws isrc imm) 31 24 = 0 ∧ slice (encodeFields op ws isrc imm) 15 12 = 0 := by
  simp only [slice, encodeFields, BitVec.toNat_ofNat, Nat.reducePow, Nat.reduceSub, Nat.reduceAdd]
  omega

theorem Instr.opcode_lt (i : Instr) : i.opcode < 256 := by cases i <;> simp [Instr.opcode]

theorem Width.code_lt (w : Width) : w.code < 8 := by cases w <;> decide

@[simp] theorem Width.ofCode_code (w : Width) : Width.ofCode w.code = some w := by cases w <;> rfl

theorem Operand2.isrc_lt (v2 : Operand2) : v2.isrc < 2 := by cases v2 <;> simp [Operand2.isrc]

theorem Operand2.immField_lt {v2 : Operand2} (h : v2.WellFormed = true) : v2.immField < 256 := by
  cases v2 with
  | wy => simp [Operand2.immField]
  | imm v => simpa [Operand2.WellFormed, Operand2.immField] using h

namespace Laws.OpcodeField

/-- The word of a well-formed command carries the command's opcode in OP and zeros in RSV1 and RSV2. -/
def Statement (i : Instr) : Prop :=
  i.WellFormed = true →
    slice (encode i) 7 0 = i.opcode ∧ slice (encode i) 31 24 = 0 ∧ slice (encode i) 15 12 = 0

theorem of_fields {i : Instr} {ws isrc imm : Nat} (he : encode i = encodeFields i.opcode ws isrc imm)
    (hw : ws < 8) (hs : isrc < 2) (hi : imm < 256) :
    slice (encode i) 7 0 = i.opcode ∧ slice (encode i) 31 24 = 0 ∧ slice (encode i) 15 12 = 0 := by
  rw [he]
  obtain ⟨h1, -, -, -, h2, h3⟩ := slice_encodeFields i.opcode_lt hw hs hi
  exact ⟨h1, h2, h3⟩

theorem nop : Statement .nop := by unfold Statement; decide
theorem configure : Statement .configure := by unfold Statement; decide
theorem keyexp : Statement .keyexp := by unfold Statement; decide
theorem encrypt (len : Nat) : Statement (.encrypt len) := fun h =>
  of_fields rfl (by decide) (by decide) (by simpa [Instr.WellFormed] using h)
theorem decrypt (len : Nat) : Statement (.decrypt len) := fun h =>
  of_fields rfl (by decide) (by decide) (by simpa [Instr.WellFormed] using h)
theorem keyclr : Statement .keyclr := by unfold Statement; decide
theorem wbuild (w : Width) : Statement (.wbuild w) := fun _ =>
  of_fields rfl w.code_lt (by decide) (by decide)
theorem wadd (w : Width) (v2 : Operand2) : Statement (.wadd w v2) := fun h =>
  of_fields rfl w.code_lt v2.isrc_lt (v2.immField_lt h)
theorem wsub (w : Width) (v2 : Operand2) : Statement (.wsub w v2) := fun h =>
  of_fields rfl w.code_lt v2.isrc_lt (v2.immField_lt h)
theorem wrotl (w : Width) (v2 : Operand2) : Statement (.wrotl w v2) := fun h =>
  of_fields rfl w.code_lt v2.isrc_lt (v2.immField_lt h)
theorem wrotr (w : Width) (v2 : Operand2) : Statement (.wrotr w v2) := fun h =>
  of_fields rfl w.code_lt v2.isrc_lt (v2.immField_lt h)
theorem wand (w : Width) (v2 : Operand2) : Statement (.wand w v2) := fun h =>
  of_fields rfl w.code_lt v2.isrc_lt (v2.immField_lt h)
theorem wor (w : Width) (v2 : Operand2) : Statement (.wor w v2) := fun h =>
  of_fields rfl w.code_lt v2.isrc_lt (v2.immField_lt h)
theorem wxor (w : Width) (v2 : Operand2) : Statement (.wxor w v2) := fun h =>
  of_fields rfl w.code_lt v2.isrc_lt (v2.immField_lt h)
theorem weq (w : Width) (v2 : Operand2) : Statement (.weq w v2) := fun h =>
  of_fields rfl w.code_lt v2.isrc_lt (v2.immField_lt h)

end Laws.OpcodeField

end Sys2Proof
end

