-- ==== Sys2Proof/Tests/Slice0.lean ====
section
/-! SUPPORT. Tests: expected values come from the spec's 95_test_vectors.md (the row is named in each docstring) or from its
worked traces. Then one witness for every statement that has hypotheses. -/

open Sys2Proof Sys2Proof.Machine

namespace Sys2Proof.Tests

/-! ### Helpers -/

/-- The next state, if there is one. -/
def nextOf (o : Host.Outcome State Fault Refusal) : Option State :=
  match o with
  | .next t => some t
  | .fault _ => none
  | .refused _ => none

/-- The reset state with WX = x and WY = y. -/
def words (x y : Nat) : State :=
  { State.reset with
    mem := (Memory.write128 [] 0x080 (BitVec.ofNat 128 x)).write128 0x090 (BitVec.ofNat 128 y) }

/-- One step that runs the command word `w` in `s`. -/
def runWord (w : Nat) (s : State) : Option State := nextOf (step (s.withFetchWord 32 w))

/-- WZ and STATUS after the command word `w`, with WX = x and WY = y. -/
def wordUnit (w x y : Nat) : Option (Nat × Nat) :=
  (runWord w (words x y)).map (fun t => (t.wz.toNat, t.statusWord.toNat))

/-- RC5-8/1/1 with key 00, block 00 00, configured, not expanded (row B1). -/
def ready : State := { State.reset with cfgValid := true, cfg := ⟨0, 1, 1, false⟩, klen := 1 }

/-- `ready` with the table of the trace in section 3.3. -/
def cached : State :=
  { ready with keyValid := true, S := [0x86, 0xD5, 0x8E, 0x81] ++ List.replicate 508 0 }

/-- The reset state with the host's accesses `ops` to come. -/
def hosted (ops : List HostOp) : State := { State.reset with host := ops }

/-- `hosted`, with the command word `v` pending behind `n` of the host's accesses. -/
def pending (v : Word32) (n : Nat) (ops : List HostOp) : State := { hosted ops with busy := true, pend := v, delay := n }

/-! ### Well-formedness -/

theorem test_wellFormed_encrypt : (Instr.encrypt 255).WellFormed = true ∧ (Instr.encrypt 256).WellFormed = false := by decide
theorem test_wellFormed_decrypt : (Instr.decrypt 255).WellFormed = true ∧ (Instr.decrypt 256).WellFormed = false := by decide
theorem test_wellFormed_immediate :
    (∀ w ∈ [Width.w8, .w128], (Instr.wadd w (.imm 256)).WellFormed = false ∧ (Instr.wadd w (.imm 255)).WellFormed = true) := by
  decide
theorem test_wellFormed_every_binary :
    ∀ i ∈ [Instr.wsub .w8 (.imm 256), .wrotl .w16 (.imm 256), .wrotr .w32 (.imm 256), .wand .w64 (.imm 256),
      .wor .w128 (.imm 256), .wxor .w8 (.imm 256), .weq .w8 (.imm 256)], i.WellFormed = false := by
  decide

/-! ### Decoding and encoding: words the spec writes out (sections 2, 3.5 and 3.8) -/

theorem test_decode_nop : decode 0x00000000 = .ok .nop := by decide
theorem test_decode_configure : decode 0x00000001 = .ok .configure := by decide
theorem test_decode_keyexp : decode 0x00000002 = .ok .keyexp := by decide
theorem test_decode_encrypt : decode 0x00FF0003 = .ok (.encrypt 255) := by decide
theorem test_decode_decrypt : decode 0x00080004 = .ok (.decrypt 8) := by decide
theorem test_decode_keyclr : decode 0x00000005 = .ok .keyclr := by decide
theorem test_decode_wbuild : decode 0x00000410 = .ok (.wbuild .w128) := by decide
theorem test_decode_wadd : decode 0x00030A11 = .ok (.wadd .w32 (.imm 3)) ∧ decode 0x00000811 = .ok (.wadd .w8 (.imm 0)) := by decide
theorem test_decode_wsub : decode 0x00000112 = .ok (.wsub .w16 .wy) := by decide
theorem test_decode_wrotl : decode 0x00FF0913 = .ok (.wrotl .w16 (.imm 255)) := by decide
theorem test_decode_wrotr : decode 0x00090814 = .ok (.wrotr .w8 (.imm 9)) := by decide
theorem test_decode_wand : decode 0x00FF0A15 = .ok (.wand .w32 (.imm 255)) := by decide
theorem test_decode_wor : decode 0x00000116 = .ok (.wor .w16 .wy) := by decide
theorem test_decode_wxor : decode 0x00000217 = .ok (.wxor .w32 .wy) := by decide
theorem test_decode_weq : decode 0x00000418 = .ok (.weq .w128 .wy) := by decide

/-- R101, R107: WROTR.64 #9 written field by field: RSV2, IMM, RSV1, ISRC, WS, OP. -/
theorem test_decode_fields :
    decode (0b00000000#8 ++ 0b00001001#8 ++ 0b0000#4 ++ 0b1#1 ++ 0b011#3 ++ 0b00010100#8) = .ok (.wrotr .w64 (.imm 9)) := by
  decide

theorem test_decode_illegal :
    ∀ v ∈ [0x00000101, 0x00010002, 0x00000006, 0x0000000F, 0x00000019, 0x000000FF, 0x00000510, 0x00000810, 0x00010011,
      0x00001011, 0x01000011, 0xFFFFFFFF, 0x00000803], decodeTableWord 32 v = none ∧ Legal (BitVec.ofNat 32 v) = false := by
  decide

theorem test_encode :
    encode .nop = 0x00000000 ∧ encode .configure = 0x00000001 ∧ encode .keyexp = 0x00000002 ∧ encode (.encrypt 8) = 0x00080003 ∧
    encode (.decrypt 7) = 0x00070004 ∧ encode .keyclr = 0x00000005 ∧ encode (.wbuild .w16) = 0x00000110 ∧
    encode (.wadd .w32 (.imm 3)) = 0x00030A11 ∧ encode (.wsub .w128 .wy) = 0x00000412 ∧
    encode (.wrotl .w64 (.imm 1)) = 0x00010B13 ∧ encode (.wrotr .w128 (.imm 1)) = 0x00010C14 ∧
    encode (.wand .w16 .wy) = 0x00000115 ∧ encode (.wor .w16 .wy) = 0x00000116 ∧ encode (.wxor .w16 .wy) = 0x00000117 ∧
    encode (.weq .w8 (.imm 0)) = 0x00000818 := by
  decide

/-! ### One step: the word unit (section 2). WZ and STATUS -/

/-- W33. -/
theorem test_wbuild : wordUnit 0x00000110 0x12345 0 = some (0x2345, 0x08) := by decide
/-- W3: the carry is discarded. -/
theorem test_wadd_wraps : wordUnit 0x00000011 0xFF 0x01 = some (0, 0x08) := by decide
/-- W30: WIDTH_ERROR of the second operand. -/
theorem test_wadd_width : wordUnit 0x00000011 0x01 0x100 = some (0, 0x58) := by decide
/-- W4: the source's wraparound. -/
theorem test_wsub_wraps : wordUnit 0x00000112 0x0001 0x0002 = some (0xFFFF, 0x08) := by decide
/-- W9: an amount wider than the word. -/
theorem test_wrotl_wide_amount : wordUnit 0x00000113 0x1234 0xFFFF = some (0x091A, 0x08) := by decide
/-- W31: an amount is never width-checked. -/
theorem test_wrotl_amount_unchecked : wordUnit 0x00000013 0x01 0x100 = some (0x01, 0x08) := by decide
/-- W11. -/
theorem test_wrotr_immediate : wordUnit 0x00090814 0x01 0 = some (0x80, 0x08) := by decide
/-- W13. -/
theorem test_wrotr : wordUnit 0x00040A14 0x12345678 0 = some (0x81234567, 0x08) := by decide
/-- W24: an immediate is zero-extended. -/
theorem test_wand_immediate : wordUnit 0x00FF0A15 0x12345678 0 = some (0x78, 0x08) := by decide
/-- W22. -/
theorem test_wor : wordUnit 0x00000116 0xF0F0 0x0FF0 = some (0xFFF0, 0x08) := by decide
/-- W23. -/
theorem test_wxor : wordUnit 0x00000117 0xF0F0 0x0FF0 = some (0xFF00, 0x08) := by decide
/-- W26, W27. -/
theorem test_weq : wordUnit 0x00000218 5 5 = some (1, 0x08) ∧ wordUnit 0x00000218 5 6 = some (0, 0x08) := by decide
/-- W32: WIDTH_ERROR, not "equal". -/
theorem test_weq_width : wordUnit 0x00000118 0x10000 0x10000 = some (0, 0x58) := by decide
/-- W34, W35: illegal words. -/
theorem test_illegal : wordUnit 0x00000511 1 1 = some (0, 0x68) ∧ wordUnit 0x00010011 1 1 = some (0, 0x68) := by decide

/-! ### One step: control, setup and blocks -/

/-- E15: NOP sets ERR back to 0. -/
theorem test_nop : (runWord 0 { State.reset with err := .illegalCommand }).map (·.statusWord.toNat) = some 0x08 := by decide
/-- C1, C2: CONFIGURE. -/
theorem test_configure :
    (runWord 1 { State.reset with cfg := cfgOfWord 0x00100C02 }).map (·.statusWord.toNat) = some 0x0A ∧
    (runWord 1 { State.reset with cfg := cfgOfWord 0x00100C05 }).map (·.statusWord.toNat) = some 0x18 := by
  decide
/-- C5: P_OVR = 0x100 is no 8-bit word. -/
theorem test_configure_override :
    (runWord 1
      { State.reset with cfg := cfgOfWord 0x01040C00, mem := Memory.write128 (Memory.write128 [] 0x020 0x100) 0x030 0x9F }).map
        (·.statusWord.toNat) = some 0x18 := by
  decide
/-- Section 3.3: the key-expansion trace. -/
theorem test_keyexp :
    (runWord 2 ready).map (fun t => (t.S.take 4, t.statusWord.toNat)) = some ([0x86, 0xD5, 0x8E, 0x81], 0x0E) := by
  decide
/-- E9: KEY_LENGTH_ERROR. -/
theorem test_keyexp_length : (runWord 2 { ready with klen := 2 }).map (·.statusWord.toNat) = some 0x2A := by decide
/-- B1. -/
theorem test_encrypt :
    (runWord 0x00020003 ready).map (fun t => (t.mem.readBytes 0x060 3, t.statusWord.toNat)) =
      some ([0xF8, 0xAE, 0x00], 0x0E) := by
  decide
/-- E5: BUFFER_BOUNDS_ERROR. -/
theorem test_encrypt_bounds : (runWord 0x00030003 ready).map (·.statusWord.toNat) = some 0x3A := by decide
/-- B1 backwards, with the cached table. -/
theorem test_decrypt :
    (runWord 0x00020004 { cached with mem := Memory.writeBytes [] 0x040 [0xF8, 0xAE] }).map
      (fun t => (t.mem.readBytes 0x060 3, t.statusWord.toNat)) = some ([0x00, 0x00, 0x00], 0x0E) := by
  decide
/-- E8: the length is checked with a cached table too, and KEY_VALID stays 1. -/
theorem test_decrypt_bounds : (runWord 0x00070004 cached).map (·.statusWord.toNat) = some 0x3E := by decide
/-- E11: KEYCLR. -/
theorem test_keyclr :
    (runWord 5 { cached with mem := [(0x100, 7), (0x1FF, 9)] }).map
      (fun t => (t.mem, t.S.take 4, t.statusWord.toNat)) = some ([], [0, 0, 0, 0], 0x0A) := by
  decide +kernel

/-- RC5-32/12/16 (CFG = 0x00100C02) with the source's first key and block. -/
def knownAnswer : State :=
  { State.reset with
    cfgValid := true
    cfg := cfgOfWord 0x00100C02
    klen := 16
    mem := (Memory.writeBytes [] 0x040 [0x00, 0x11, 0x22, 0x33, 0x44, 0x55, 0x66, 0x77]).writeBytes 0x100
      [0, 1, 2, 3, 4, 5, 6, 7, 8, 9, 10, 11, 12, 13, 14, 15] }

/-- S1, B4: the source's first known answer. -/
theorem test_known_answer :
    (runWord 0x00080003 knownAnswer).map (fun t => t.mem.readBytes 0x060 9) =
      some [0x2D, 0xDC, 0x14, 0x9B, 0xCF, 0x08, 0x8B, 0x9E, 0x00] := by
  decide +kernel

/-! ### The window (section 3.9) -/

/-- M1, M5: ID, and a reserved offset. -/
theorem test_read : (hostRead 0x000 State.reset).reads = [0x52433501] ∧
    (hostRead 0x018 State.reset).reads = [0] ∧ (hostRead 0x018 State.reset).statusWord = 0x00000200 := by decide
/-- M6, M10: a misaligned offset, and the last reserved range. -/
theorem test_read_errors : (hostRead 0x042 State.reset).busErr = true ∧ (hostRead 0x200 State.reset).busErr = true ∧
    (hostRead 0x3FF State.reset).busErr = true := by decide
/-- M4: KEY is write only. -/
theorem test_key_write_only :
    (hostRead 0x100 (hostWrite 0x100 0x03020100 State.reset)).reads = [0] ∧
    (hostWrite 0x100 0x03020100 State.reset).mem.readBytes 0x100 4 = [0, 1, 2, 3] := by decide
/-- M7, M8, M9: BOUT, ID and WZ are read only. -/
theorem test_write_errors : ∀ o ∈ [0x060, 0x000, 0x0A0, 0x07C, 0x0AC],
    (hostWrite o 1 State.reset).busErr = true ∧ (hostWrite o 1 State.reset).mem = [] := by decide
/-- M11, M16: write 1 to clear, and KLEN's reserved bits. -/
theorem test_write_registers :
    (hostWrite 0x008 0x00000200 (hostRead 0x018 State.reset)).statusWord = 0 ∧
    (hostRead 0x014 (hostWrite 0x014 0xFFFFFFFF State.reset)).reads = [0x000000FF] ∧
    (hostRead 0x010 (hostWrite 0x010 0xFFFFFFFF State.reset)).reads = [0x01FFFF07] := by decide
/-- M17, M18: byte lanes of WX. -/
theorem test_lanes :
    (hostWrite 0x080 0x44332211 State.reset).wx = 0x44332211 ∧
    (hostWrite 0x08C 0x80000000 State.reset).wx.toNat = 2 ^ 127 := by decide
/-- M12, M13: IE and irq. -/
theorem test_irq :
    (hostRead 0x00C (hostWrite 0x00C 1 State.reset)).reads = [1] ∧ (hostWrite 0x00C 1 State.reset).irq = false ∧
    (runWord 0 (hostWrite 0x00C 1 State.reset)).map (·.irq) = some true := by decide
/-- R280: a write while busy is dropped, and sets OVR. -/
theorem test_busy_write :
    (hostWrite 0x010 0x00100C02 (pending 0 1 [])).cfg = State.reset.cfg ∧ (hostWrite 0x010 0x00100C02 (pending 0 1 [])).ovr = true := by
  decide
/-- M15: the soft reset. -/
theorem test_soft_reset :
    (hostWrite 0x00C 3 { ready with ie := true, done := true, ovr := true }).statusWord = 0 ∧
    (hostWrite 0x00C 3 { ready with ie := true }).ctrlWord = 0 := by decide
/-- R112: `wrbytes` and `rdbytes`. -/
theorem test_wrbytes : wrbytes 0x100 [1, 2, 3, 4, 5] = wr 0x100 0x04030201 ++ wr 0x104 0x00000005 ∧
    rdbytes 0x060 5 = rd 0x060 ++ rd 0x064 := by
  constructor <;> rfl

/-! ### Witnesses: the hypotheses of the statements can be met -/

theorem witness_DecodeEncodeRoundTrip : (Instr.encrypt 255).WellFormed = true ∧ (Instr.weq .w128 (.imm 255)).WellFormed = true := by
  decide

theorem witness_DecodeFollowsLegality :
    Legal 0x00FF0918 = true ∧ Legal 0x00FF0518 = false ∧ Instr.keyclr.WellFormed = true ∧ encode .keyclr = encode .keyclr := by
  decide

/-- `v[hi:lo]` of the command word `v`. -/
def field (v hi lo : Nat) : Nat := slice (BitVec.ofNat 32 v) hi lo

/-- One word for each clause, at the ends of its range. -/
theorem witness_ReservedEncodingsRefused :
    (∀ v ∈ [0x06, 0x0F], 0x06 ≤ field v 7 0 ∧ field v 7 0 ≤ 0x0F) ∧
    (∀ v ∈ [0x19, 0xFF], 0x19 ≤ field v 7 0) ∧
    slice 0x00001000#32 15 12 ≠ 0 ∧ slice 0x01000000#32 31 24 ≠ 0 ∧
    (∀ v ∈ [0x0510, 0x0718], 0x10 ≤ field v 7 0 ∧ field v 7 0 ≤ 0x18 ∧ 5 ≤ field v 10 8) ∧
    (∀ v ∈ [0x0100, 0x0805], field v 7 0 ≤ 0x05 ∧ (field v 10 8 ≠ 0 ∨ field v 11 11 ≠ 0)) ∧
    (∀ v ∈ [0x010002, 0xFF0005], (field v 7 0 ≤ 0x02 ∨ field v 7 0 = 0x05) ∧ field v 23 16 ≠ 0) ∧
    (∀ v ∈ [0x0810, 0x010010], field v 7 0 = 0x10 ∧ (field v 11 11 ≠ 0 ∨ field v 23 16 ≠ 0)) ∧
    (∀ v ∈ [0x010011, 0xFF0018],
      0x11 ≤ field v 7 0 ∧ field v 7 0 ≤ 0x18 ∧ field v 11 11 = 0 ∧ field v 23 16 ≠ 0) := by
  decide

/-- A legal command and an illegal word, each with its completion due. -/
theorem witness_StepRunsPendingCommand :
    ((pending 0x10 0 []).completionDue = true ∧ decode (pending 0x10 0 []).pend = .ok (.wbuild .w8)) ∧
    ((pending 0x06 0 []).completionDue = true ∧ Legal (pending 0x06 0 []).pend = false) := by
  decide

/-- A command that is not KEYCLR, and the ends of each range of bytes that commands only read. -/
theorem witness_CompletionKeepsInputs :
    Instr.keyexp ≠ .keyclr ∧ (∀ o ∈ [0x020, 0x05F, 0x080, 0x09F], (0x020 ≤ o ∧ o < 0x060) ∨ (0x080 ≤ o ∧ o < 0x0A0)) ∧
      ∀ o ∈ [0x100, 0x1FF], 0x100 ≤ o ∧ o < 0x200 := by
  decide

theorem witness_FailureWritesOnlyTheCode :
    (∃ t, exec (.encrypt 8) State.reset = .next t ∧ t.err ≠ .ok) ∧
    (∃ t, exec .configure State.reset = .next t ∧ t.err ≠ .ok) ∧ State.reset.ConfigConsistent :=
  ⟨⟨_, rfl, by decide⟩, ⟨_, rfl, by decide⟩, ⟨by decide, by decide⟩⟩

/-- A word command, a block command with and without a cached table, and the four others. -/
theorem witness_CommandFrames :
    (isWordUnit (.wadd .w8 .wy) = true ∧ ∃ t, exec (.wadd .w8 .wy) (words 1 1) = .next t) ∧
    (isBlock (.encrypt 2) = true ∧ cached.keyValid = true ∧ cached.active? ≠ none ∧ ∃ t, exec (.encrypt 2) cached = .next t) ∧
    (ready.active? ≠ none ∧ ∃ t, exec (.decrypt 2) ready = .next t) ∧
    (∃ t, exec .nop ready = .next t) ∧ (∃ t, exec .configure ready = .next t) ∧ (∃ t, exec .keyexp ready = .next t) ∧
    (∃ t, exec .keyclr ready = .next t) :=
  ⟨⟨rfl, _, rfl⟩, ⟨rfl, rfl, by decide, _, rfl⟩, ⟨by decide, _, rfl⟩, ⟨_, rfl⟩, ⟨_, rfl⟩, ⟨_, rfl⟩, ⟨_, rfl⟩⟩

/-- Both operand forms, at the largest values. For WaddWsubResult, BitwiseResults, WeqResult and RotateResults. -/
theorem witness_WaddWsubResult :
    ((Operand2.imm 255).WellFormed = true ∧ (words 0xFF 0).wx.toNat < 2 ^ widthBits .w8 ∧
      v2Value (words 0xFF 0) (.imm 255) < 2 ^ widthBits .w8) ∧
    (Operand2.wy.WellFormed = true ∧ (words (2 ^ 128 - 1) (2 ^ 128 - 1)).wx.toNat < 2 ^ widthBits .w128 ∧
      v2Value (words (2 ^ 128 - 1) (2 ^ 128 - 1)) .wy < 2 ^ widthBits .w128) := by
  decide

/-- A rotate amount beyond the width is no exception. -/
theorem witness_RotateResults :
    Operand2.wy.WellFormed = true ∧ (words 0xFF 0x100).wx.toNat < 2 ^ widthBits .w8 ∧
      ¬v2Value (words 0xFF 0x100) .wy < 2 ^ widthBits .w8 := by
  decide

theorem witness_BitwiseResults :
    Operand2.wy.WellFormed = true ∧ (words 0xFFFF 0xFFFF).wx.toNat < 2 ^ widthBits .w16 ∧
      v2Value (words 0xFFFF 0xFFFF) .wy < 2 ^ widthBits .w16 := by
  decide

theorem witness_WeqResult :
    (Operand2.imm 0).WellFormed = true ∧ (words 0 0).wx.toNat < 2 ^ widthBits .w8 ∧
      v2Value (words 0 0) (.imm 0) < 2 ^ widthBits .w8 := by
  decide

/-- Each side of each check, at its edge. -/
theorem witness_WidthErrorsExactly :
    Operand2.wy.WellFormed = true ∧ 2 ^ widthBits .w8 ≤ (words 0x100 0).wx.toNat ∧
    2 ^ widthBits .w8 ≤ v2Value (words 0 0x100) .wy ∧
    ((words 0xFF 0xFF).wx.toNat < 2 ^ widthBits .w8 ∧ v2Value (words 0xFF 0xFF) .wy < 2 ^ widthBits .w8) := by
  decide

theorem witness_WordResultsFitWidth :
    wordWidth (.wadd .w8 .wy) = some .w8 ∧ ∃ t, exec (.wadd .w8 .wy) (words 0xFF 0xFF) = .next t ∧ t.err = .ok :=
  ⟨rfl, _, rfl, by decide⟩

theorem witness_WordUnitIgnoresConfiguration :
    isWordUnit (.wxor .w8 .wy) = true ∧ State.reset.wx = cached.wx ∧ State.reset.wy = cached.wy ∧
      State.reset.cfg ≠ cached.cfg := by
  decide

/-- An accepted configuration with and without the overrides, and a refused one. -/
theorem witness_ConfigureResult :
    ConfigAccepted ready ∧ ConfigAccepted { ready with cfg := ⟨0, 255, 255, true⟩, mem := [(0x020, 0xFF)] } ∧
      ¬ConfigAccepted State.reset := by
  refine ⟨⟨.w8, by decide, by decide, by decide, by decide⟩, ⟨.w8, by decide, by decide, by decide, by decide⟩, ?_⟩
  rintro ⟨_, _, h, _⟩
  exact h (by decide)

/-- The active configuration of `ready`. -/
def readyActive : Active := { w := .w8, r := 1, b := 1, P := 0xB7, Q := 0x9F }

/-- RC5-8/1/1 with P_OVR = FF and Q_OVR = 11. -/
def overridden : State := { ready with cfg := ⟨0, 1, 1, true⟩, mem := [(0x020, 0xFF), (0x030, 0x11)] }

/-- The clauses of ActiveNumbers about the constants: the built-in ones, and overrides that are w-bit words. -/
theorem witness_ActiveNumbers :
    (ready.active? = some readyActive ∧ ready.cfg.pqovr = false) ∧
    (overridden.active? = some { readyActive with P := 0xFF, Q := 0x11 } ∧ overridden.cfg.pqovr = true ∧
      overridden.pOvr.toNat < 2 ^ widthBits .w8 ∧ overridden.qOvr.toNat < 2 ^ widthBits .w8) := by
  decide

/-- The last supported and the first unsupported width code; and an engine ready to expand. -/
theorem witness_KeyexpResult :
    ({ ready with cfg := ⟨4, 1, 1, false⟩ }.cfg.ws.toNat ≤ 4 ∧ 5 ≤ { ready with cfg := ⟨5, 1, 1, false⟩ }.cfg.ws.toNat) ∧
    ready.cfgValid = true ∧ ready.active? = some readyActive ∧ ready.klen.toNat = readyActive.b := by
  decide

/-- The last entry of the largest table; and the sizes for 255 rounds and a key of 3 bytes at w = 16. -/
theorem witness_SeedTableClosedForm :
    (511 : Nat) < 512 ∧ 512 = 2 * (255 + 1) ∧ 2 = (([1, 2, 3] : List Byte).length + widthBytes .w16 - 1) / widthBytes .w16 := by
  decide

/-- The last byte of a 16-byte number; and the last word of 255 bytes at w = 128 (15 bytes of it). -/
theorem witness_KeyWordsClosedForm :
    15 < 16 ∧ 15 < ((List.replicate 255 (0xA5 : Byte)).length + widthBytes .w128 - 1) / widthBytes .w128 := by
  decide +kernel

/-- 255 key words, and the smallest and the largest round number. -/
theorem witness_ScheduleSizes :
    (ready.configLegal = true ∧ ready.active? = some readyActive) ∧
    ({ ready with cfg := ⟨0, 255, 255, false⟩ }.configLegal = true ∧
      { ready with cfg := ⟨0, 255, 255, false⟩ }.active? = some { readyActive with r := 255, b := 255 } ∧
      ceilDiv 255 (widthBytes .w8) = 255) := by
  decide

theorem cached_fresh : cached.CacheFresh := fun _ => ⟨readyActive, by decide, by decide, by decide⟩

theorem ready_blockReady : BlockReady ready readyActive 2 :=
  ⟨rfl, by decide, by decide, fun h => absurd h (by decide), by decide⟩

theorem cached_blockReady : BlockReady cached readyActive 2 := ⟨rfl, by decide, by decide, cached_fresh, by decide⟩

/-- With the table still to be expanded, and with the table cached. For EncryptResult, DecryptResult and MachineRoundTrip. -/
theorem witness_EncryptResult : BlockReady ready readyActive 2 ∧ BlockReady cached readyActive 2 :=
  ⟨ready_blockReady, cached_blockReady⟩

theorem witness_DecryptResult : BlockReady ready readyActive 2 ∧ BlockReady cached readyActive 2 := witness_EncryptResult

theorem witness_MachineRoundTrip : BlockReady ready readyActive 2 ∧ BlockReady cached readyActive 2 := witness_EncryptResult

/-- Not configured; wrong key length with and without KEY_VALID; wrong LEN one byte short and one byte long. -/
theorem witness_EngineErrorsInOrder :
    State.reset.cfgValid = false ∧
    (ready.cfgValid = true ∧ ready.active? = some readyActive) ∧
    ({ ready with klen := 0 }.keyValid = false ∧ { ready with klen := 0 }.klen.toNat ≠ readyActive.b) ∧
    (cached.keyValid = true ∧ cached.active? = some readyActive) ∧ ready.klen.toNat = readyActive.b ∧
    (1 ≠ 2 * readyActive.u ∧ 3 ≠ 2 * readyActive.u) := by
  decide

theorem witness_CacheIsTransparent : cached.CacheFresh ∧ cached.keyValid = true := ⟨cached_fresh, rfl⟩

theorem witness_CipherReadsTableOnly :
    (∀ i, i < 2 * (1 + 1) →
      ([1, 2, 3, 4, 5] : List (Word (widthBits .w8))).getD i 0 = ([1, 2, 3, 4] : List (Word (widthBits .w8))).getD i 0) := by
  decide

/-- The memory differs in KEY[1] and KEY[255], beyond the one key byte. -/
theorem witness_KeyBytesPastLengthIgnored :
    ready.active? = some readyActive ∧
    ∀ o, ¬(0x100 + readyActive.b ≤ o ∧ o < 0x200) → Memory.read [(0x101, 7), (0x1FF, 9)] o = ready.mem.read o := by
  refine ⟨by decide, fun o h => ?_⟩
  have h : ¬(0x101 ≤ o ∧ o < 0x200) := h
  show (if 0x101 = o then _ else if 0x1FF = o then _ else _) = _
  rw [if_neg (by omega), if_neg (by omega)]
  rfl

/-- The host's next access is the read at offset `o`. -/
theorem hosted_reads {o : Nat} (h : o < 0x400) (rest : List HostOp) :
    HostReads (hosted (.read (Config.base + o) :: rest)) o rest := ⟨rfl, rfl, h⟩

/-- The host's next access is the write of `v` at offset `o`, the engine idle. -/
theorem hosted_writes {o : Nat} (h : o < 0x400) (v : Word32) (rest : List HostOp) :
    HostWrites (hosted (.write (Config.base + o) v :: rest)) o v rest := ⟨rfl, rfl, h⟩

/-- The same with a command pending. -/
theorem pending_writes {o : Nat} (h : o < 0x400) (v : Word32) (rest : List HostOp) :
    HostWrites (pending 0 1 (.write (Config.base + o) v :: rest)) o v rest := ⟨rfl, rfl, h⟩

/-- Misaligned, each end of each reserved range, and a read that is no error. -/
theorem witness_HostReadReturnsRegister :
    (∀ o ∈ [0x042, 0x018, 0x01C, 0x0B0, 0x0FC, 0x200, 0x3FC],
      HostReads (hosted [.read (Config.base + o)]) o [] ∧ (o % 4 ≠ 0 ∨ isReserved o)) ∧
    (∀ o ∈ [0x000, 0x014, 0x020, 0x0AC, 0x100, 0x1FC],
      HostReads (hosted [.read (Config.base + o)]) o [] ∧ ¬(o % 4 ≠ 0 ∨ isReserved o)) := by
  constructor <;> intro o ho <;> simp only [List.mem_cons, List.not_mem_nil, or_false] at ho <;>
    rcases ho with rfl | rfl | rfl | rfl | rfl | rfl | rfl <;>
    exact ⟨hosted_reads (by decide) [], by unfold isReserved; decide⟩

/-- The ends of each range of offsets; and states with the first and the last error code. -/
theorem witness_WindowShowsRegisters :
    (0x020 ≤ 0x020 ∧ 0x0AC < 0x0B0) ∧ (0x100 ≤ 0x100 ∧ 0x1FC < 0x200) ∧ State.reset.err = .ok ∧
      { State.reset with err := .illegalCommand }.err = .illegalCommand := by
  decide

theorem witness_LittleEndianLanes : (3 : Nat) < 4 := by decide

/-- Each kind of access error, with the engine idle and with a command pending. -/
theorem witness_WriteAccessErrors :
    ∀ o ∈ [0x042, 0x018, 0x0FC, 0x3FC, 0x000, 0x060, 0x07C, 0x0A0, 0x0AC],
      HostWrites (hosted [.write (Config.base + o) 1]) o 1 [] ∧ HostWrites (pending 0 1 [.write (Config.base + o) 1]) o 1 [] ∧
        (o % 4 ≠ 0 ∨ isReserved o ∨ isReadOnly o) := by
  intro o ho
  simp only [List.mem_cons, List.not_mem_nil, or_false] at ho
  rcases ho with rfl | rfl | rfl | rfl | rfl | rfl | rfl | rfl | rfl <;>
    exact ⟨hosted_writes (by decide) 1 [], pending_writes (by decide) 1 [], by unfold isReserved isReadOnly; decide⟩

theorem witness_BusyWritesDropped :
    ∀ o ∈ [0x004, 0x010, 0x014, 0x020, 0x05C, 0x080, 0x09C, 0x100, 0x1FC],
      HostWrites (pending 0 1 [.write (Config.base + o) 1]) o 1 [] ∧ (pending 0 1 [.write (Config.base + o) 1]).busy = true ∧
        ¬(o % 4 ≠ 0 ∨ isReserved o ∨ isReadOnly o) ∧ o ≠ 0x008 ∧ o ≠ 0x00C := by
  intro o ho
  simp only [List.mem_cons, List.not_mem_nil, or_false] at ho
  rcases ho with rfl | rfl | rfl | rfl | rfl | rfl | rfl | rfl | rfl <;>
    exact ⟨pending_writes (by decide) 1 [], rfl, by unfold isReserved isReadOnly; decide, by decide, by decide⟩

theorem witness_CommandAcceptance :
    HostWrites (hosted [.write (Config.base + 0x004) 0xFFFFFFFF]) 0x004 0xFFFFFFFF [] ∧
      (hosted [.write (Config.base + 0x004) 0xFFFFFFFF]).busy = false :=
  ⟨hosted_writes (by decide) _ [], rfl⟩

/-- STATUS and CTRL, idle and busy. -/
theorem witness_StatusAndCtrlWrites :
    HostWrites (hosted [.write (Config.base + 0x008) 0x308]) 0x008 0x308 [] ∧
    HostWrites (pending 0 1 [.write (Config.base + 0x008) 0x308]) 0x008 0x308 [] ∧
    (HostWrites (pending 0 1 [.write (Config.base + 0x00C) 1]) 0x00C 1 [] ∧ (1 : Word32).getLsbD 1 = false) ∧
    (HostWrites (pending 0 1 [.write (Config.base + 0x00C) 3]) 0x00C 3 [] ∧ (3 : Word32).getLsbD 1 = true) :=
  ⟨hosted_writes (by decide) _ [], pending_writes (by decide) _ [], ⟨pending_writes (by decide) _ [], by decide⟩,
   pending_writes (by decide) _ [], by decide⟩

/-- The soft reset, with a command pending. -/
theorem pending_soft_reset (rest : List HostOp) : ResetNext (pending 0 1 (.write (Config.base + 0x00C) 2 :: rest)) :=
  ⟨rfl, rest, .inr ⟨2, by decide, rfl⟩⟩

/-- The reset input, with a command pending. -/
theorem pending_hard_reset (rest : List HostOp) : ResetNext (pending 0 1 (.reset :: rest)) := ⟨rfl, rest, .inl rfl⟩

theorem witness_ResetGivesResetValues :
    ResetNext (pending 0 1 [.reset]) ∧ ResetNext (pending 0 1 [.write (Config.base + 0x00C) 2]) :=
  ⟨pending_hard_reset [], pending_soft_reset []⟩

theorem witness_ConfigurationWrites :
    ∀ o ∈ [0x010, 0x014, 0x020, 0x03C],
      HostWrites (hosted [.write (Config.base + o) 5]) o 5 [] ∧ (hosted [.write (Config.base + o) 5]).busy = false ∧
        (o = 0x010 ∨ o = 0x014 ∨ (o % 4 = 0 ∧ 0x020 ≤ o ∧ o < 0x040)) := by
  intro o ho
  simp only [List.mem_cons, List.not_mem_nil, or_false] at ho
  rcases ho with rfl | rfl | rfl | rfl <;> exact ⟨hosted_writes (by decide) _ [], rfl, by decide⟩

theorem witness_BufferWrites :
    ∀ o ∈ [0x100, 0x1FC, 0x040, 0x05C, 0x080, 0x09C],
      HostWrites (hosted [.write (Config.base + o) 5]) o 5 [] ∧ (hosted [.write (Config.base + o) 5]).busy = false ∧ o % 4 = 0 ∧
        ((0x100 ≤ o ∧ o < 0x200) ∨ (0x040 ≤ o ∧ o < 0x060) ∨ (0x080 ≤ o ∧ o < 0x0A0)) := by
  intro o ho
  simp only [List.mem_cons, List.not_mem_nil, or_false] at ho
  rcases ho with rfl | rfl | rfl | rfl | rfl | rfl <;> exact ⟨hosted_writes (by decide) _ [], rfl, by decide, by decide⟩

/-- A read, and the polling loop; the other memory holds a key byte. -/
theorem witness_KeyAndTablesUnreadable :
    ((hosted [.read (Config.base + 0x100)]).completionDue = false ∧
      (hosted [.read (Config.base + 0x100)]).host = [.read (Config.base + 0x100)]) ∧
    ((hosted [.wait]).completionDue = false ∧ (hosted [.wait]).host = [.wait]) ∧
    ∀ o, ¬(0x100 ≤ o ∧ o < 0x200) → Memory.read [(0x100, 7)] o = State.reset.mem.read o := by
  refine ⟨⟨rfl, rfl⟩, ⟨rfl, rfl⟩, fun o h => ?_⟩
  show (if 0x100 = o then _ else _) = _
  rw [if_neg (by omega)]
  rfl

/-- Every invariant holds of a configured engine with a valid cache and stored bytes. -/
theorem cached_inv : State.Inv { cached with mem := [(0x040, 1), (0x1FF, 2)] } where
  memory := ⟨⟨by decide, by decide⟩, by decide⟩
  tables := ⟨by decide +kernel, by decide +kernel⟩
  lifecycle := fun h => absurd h (by decide)
  config := ⟨by decide, by decide⟩
  cache := fun _ => ⟨readyActive, by decide, by decide, by decide⟩

/-- `cached_inv`'s state with an ENCRYPT due. -/
def cachedDue : State := State.withFetchWord { cached with mem := [(0x040, 1), (0x1FF, 2)] } 32 0x00020003

theorem cachedDue_steps : ∃ t, step cachedDue = .next t ∧ t.err = .ok := ⟨_, rfl, by decide⟩

theorem witness_StepKeepsMemoryCanonical : cachedDue.MemoryCanonical ∧ ∃ t, step cachedDue = .next t :=
  ⟨cached_inv.memory, cachedDue_steps.imp fun _ h => h.1⟩

theorem witness_StepKeepsTablesAndLifecycle :
    cachedDue.TablesSized ∧ cachedDue.BusyNotDone ∧ ∃ t, step cachedDue = .next t :=
  ⟨cached_inv.tables, fun _ => rfl, cachedDue_steps.imp fun _ h => h.1⟩

/-- A step from a consistent configuration, and a CONFIGURE that fails from one. -/
theorem witness_StepKeepsConfigConsistent :
    (cachedDue.ConfigConsistent ∧ ∃ t, step cachedDue = .next t) ∧
    (State.reset.ConfigConsistent ∧ ∃ t, exec .configure State.reset = .next t ∧ t.err ≠ .ok) :=
  ⟨⟨cached_inv.config, cachedDue_steps.imp fun _ h => h.1⟩, ⟨by decide, by decide⟩, _, rfl, by decide⟩

theorem witness_StepKeepsCacheFresh : cachedDue.CacheFresh ∧ cachedDue.keyValid = true ∧ ∃ t, step cachedDue = .next t :=
  ⟨cached_inv.cache, rfl, cachedDue_steps.imp fun _ h => h.1⟩

/-- One step for each clause. -/
theorem witness_ValidBitsChangeOnlyBy :
    (∃ s t, step s = .next t ∧ s.cfgValid = false ∧ t.cfgValid = true) ∧
    (∃ s t, step s = .next t ∧ s.cfgValid = true ∧ t.cfgValid = false) ∧
    (∃ s t, step s = .next t ∧ s.keyValid = false ∧ t.keyValid = true) ∧
    (∃ s t, step s = .next t ∧ s.keyValid = true ∧ t.keyValid = false) :=
  ⟨⟨State.withFetchWord { ready with cfgValid := false } 32 1, _, rfl, rfl, rfl⟩,
   ⟨{ cached with host := [.write (Config.base + 0x010) 0] }, _, step_of_hostWrites ⟨rfl, rfl, by decide⟩, rfl, rfl⟩,
   ⟨State.withFetchWord ready 32 0x00020003, _, rfl, rfl, rfl⟩,
   ⟨{ cached with host := [.write (Config.base + 0x100) 0] }, _, step_of_hostWrites ⟨rfl, rfl, by decide⟩, rfl, rfl⟩⟩

/-- One step for each clause. -/
theorem witness_LifecycleBitsChangeOnlyBy :
    (∃ t, step cachedDue = .next t ∧ cachedDue.completionDue = true ∧ cachedDue.done = false ∧ t.done = true ∧
      cachedDue.busy = true ∧ t.busy = false) ∧
    (∃ s t, step s = .next t ∧ s.busy = false ∧ t.busy = true) ∧
    (∃ s t, step s = .next t ∧ s.done = true ∧ t.done = false) ∧
    (∃ s t, step s = .next t ∧ t.err ≠ s.err) :=
  ⟨⟨_, rfl, rfl, rfl, rfl, rfl, rfl⟩,
   ⟨hosted [.write (Config.base + 0x004) 0], _, step_of_hostWrites (hosted_writes (by decide) _ []), rfl, rfl⟩,
   ⟨{ hosted [.write (Config.base + 0x008) 8] with done := true }, _, step_of_hostWrites ⟨rfl, rfl, by decide⟩, rfl, rfl⟩,
   ⟨pending 0x06 0 [], _, rfl, by decide⟩⟩

/-- One step for each clause. -/
theorem witness_StickyBitsChangeOnlyBy :
    (∃ s t, step s = .next t ∧ s.ovr = false ∧ t.ovr = true) ∧
    (∃ s t, step s = .next t ∧ s.ovr = true ∧ t.ovr = false) ∧
    (∃ s t, step s = .next t ∧ s.busErr = false ∧ t.busErr = true) ∧
    (∃ s t, step s = .next t ∧ s.busErr = true ∧ t.busErr = false) :=
  ⟨⟨pending 0 1 [.write (Config.base + 0x010) 0], _, step_of_hostWrites (pending_writes (by decide) _ []), rfl, rfl⟩,
   ⟨{ hosted [.write (Config.base + 0x008) 0x100] with ovr := true }, _, step_of_hostWrites ⟨rfl, rfl, by decide⟩, rfl, rfl⟩,
   ⟨hosted [.read (Config.base + 0x018)], _, step_of_hostReads (hosted_reads (by decide) []), rfl, rfl⟩,
   ⟨{ hosted [.write (Config.base + 0x008) 0x200] with busErr := true }, _, step_of_hostWrites ⟨rfl, rfl, by decide⟩, rfl, rfl⟩⟩

theorem not_resetNext {s : State} (h : s.completionDue = true) : ¬ResetNext s := fun hr => by rw [hr.1] at h; simp at h

/-- One step for each clause: BOUT and S, and WZ. -/
theorem witness_OutputsChangeOnlyBy :
    (∃ s t, step s = .next t ∧ ¬ResetNext s ∧ t.mem.readBytes 0x060 32 ≠ s.mem.readBytes 0x060 32 ∧
      t.S.take 4 ≠ s.S.take 4) ∧
    (∃ s t, step s = .next t ∧ ¬ResetNext s ∧ t.wz ≠ s.wz) :=
  ⟨⟨State.withFetchWord ready 32 0x00020003, _, rfl, not_resetNext rfl, by decide +kernel, by decide +kernel⟩,
   ⟨(words 1 1).withFetchWord 32 0x11, _, rfl, not_resetNext rfl, by decide +kernel⟩⟩

theorem witness_BusyHoldsInputs :
    (∃ t, step (pending 0 1 [.read (Config.base + 0x008)]) = .next t) ∧ (pending 0 1 [.read (Config.base + 0x008)]).busy = true ∧
    (pending 0 1 [.read (Config.base + 0x008)]).BusyNotDone ∧
    (pending 0 1 [.read (Config.base + 0x008)]).completionDue = false ∧
    ¬ResetNext (pending 0 1 [.read (Config.base + 0x008)]) := by
  refine ⟨⟨_, step_of_hostReads ⟨rfl, rfl, by decide⟩⟩, rfl, fun _ => rfl, rfl, ?_⟩
  rintro ⟨_, rest, h | ⟨v, _, h⟩⟩ <;> simp [pending, hosted] at h

/-- irq rises at a completion, and at a write to CTRL. -/
theorem witness_IrqRisesOnlyBy :
    (∃ s t, step s = .next t ∧ s.irq = false ∧ t.irq = true ∧ s.completionDue = true) ∧
    (∃ s t, step s = .next t ∧ s.irq = false ∧ t.irq = true ∧ s.completionDue = false) :=
  ⟨⟨{ pending 0 0 [] with ie := true }, _, rfl, rfl, rfl, rfl⟩,
   ⟨{ hosted [.write (Config.base + 0x00C) 1] with done := true }, _, step_of_hostWrites ⟨rfl, rfl, by decide⟩, rfl, rfl, rfl⟩⟩

/-- The address just above the window. -/
theorem witness_StepStopsOnlyOutsideWindow :
    step (hosted [.read (Config.base + 0x400)]) = .refused .outsideWindow ∧ ¬inWindow (Config.base + 0x400) := by
  have h : offsetOf (Config.base + 0x400) = none := by simp [offsetOf, Config.windowSize]
  refine ⟨?_, by simp [inWindow, Config.windowSize]⟩
  show perform (.read (Config.base + 0x400)) _ = _
  simp only [perform, h]

theorem witness_AcceptedCommandCompletes :
    (pending 0 1 [.read (Config.base + 0x3FC), .wait]).busy = true ∧
    ∀ op ∈ (pending 0 1 [.read (Config.base + 0x3FC), .wait]).host, op.InWindow := by
  refine ⟨rfl, fun op h => ?_⟩
  simp only [pending, hosted, List.mem_cons, List.not_mem_nil, or_false] at h
  rcases h with rfl | rfl
  · show inWindow _
    simp [inWindow, Config.windowSize]
  · trivial

end Sys2Proof.Tests
end

section
/-! PROOF. Little-endian values as sums (R10), and the key-parsing loop of R185 in closed form. The loop runs over the key
from its last byte to its first, so the proof follows the bytes of each word that it has consumed so far. -/

namespace Sys2Proof.Machine

/-! ### Little-endian values and bytes (R10) -/

theorem leValue_eq_sum (bs : List Byte) :
    leValue bs = ∑ k ∈ Finset.range bs.length, (bs.getD k 0).toNat * 2 ^ (8 * k) := by
  induction bs with
  | nil => rfl
  | cons b bs ih =>
    have shift (k : Nat) : (bs.getD k 0).toNat * 2 ^ (8 * (k + 1)) = 256 * ((bs.getD k 0).toNat * 2 ^ (8 * k)) := by
      rw [Nat.mul_add, Nat.pow_add]; ring
    simp only [leValue, List.length_cons, Finset.sum_range_succ', List.getD_cons_succ, List.getD_cons_zero, shift,
      ← Finset.mul_sum, ← ih]
    omega

theorem toNat_getD_leBytes {n k : Nat} (v : Nat) (h : k < n) :
    ((leBytes n v).getD k 0).toNat = v / 2 ^ (8 * k) % 2 ^ 8 := by
  rw [getD_leBytes, if_pos h, BitVec.toNat_ofNat, Nat.pow_mul]

/-! ### The bytes of a key word -/

/-- The bytes of key word `j` at index `n` or above: those the loop of R185 has consumed when the indices below `n` are left. -/
def consumedBytes (u : Nat) (K : List Byte) (n j : Nat) : List Byte :=
  (K.take (j * u + u)).drop (max (j * u) n)

theorem consumedBytes_length (u : Nat) (K : List Byte) (j : Nat) : consumedBytes u K K.length j = [] :=
  List.drop_eq_nil_of_le (by simp)

theorem consumedBytes_zero (u : Nat) (K : List Byte) (j : Nat) :
    consumedBytes u K 0 j = (K.drop (j * u)).take u := by
  rw [consumedBytes, Nat.max_zero, List.drop_take, Nat.add_sub_cancel_left]

theorem length_consumedBytes_le (u : Nat) (K : List Byte) (n j : Nat) : (consumedBytes u K n j).length ≤ u := by
  simp only [consumedBytes, List.length_drop, List.length_take]
  omega

/-- Byte `i` comes in front of the bytes of its own word. -/
theorem consumedBytes_own {u i : Nat} {K : List Byte} (hu : 0 < u) (hi : i < K.length) :
    consumedBytes u K i (i / u) = K.getD i 0 :: consumedBytes u K (i + 1) (i / u) := by
  have low : i / u * u ≤ i := Nat.div_mul_le_self i u
  have high : i < i / u * u + u := Nat.lt_div_mul_add hu
  rw [consumedBytes, consumedBytes, Nat.max_eq_right low, Nat.max_eq_right (Nat.le_succ_of_le low),
    List.drop_eq_getElem_cons (by simp; omega), List.getElem_take, List.getD_eq_getElem K 0 hi]

/-- Byte `i` is no byte of another word. -/
theorem consumedBytes_other {u i j : Nat} (K : List Byte) (hu : 0 < u) (hj : i / u ≠ j) :
    consumedBytes u K i j = consumedBytes u K (i + 1) j := by
  rcases Nat.lt_or_gt_of_ne hj with h | h
  · have below : i < j * u := (Nat.div_lt_iff_lt_mul hu).mp h
    rw [consumedBytes, consumedBytes, Nat.max_eq_left below.le, Nat.max_eq_left below]
  · have above : j * u + u ≤ i := by
      rw [← Nat.succ_mul]; exact (Nat.le_div_iff_mul_le hu).mp h
    rw [consumedBytes, consumedBytes, List.drop_eq_nil_of_le (by simp; omega), List.drop_eq_nil_of_le (by simp; omega)]

/-! ### The loop (R185) -/

/-- Rotating by 8 and adding a byte is a shift by a byte, as long as no byte of the word is lost. At w = 8 the rotate is the
identity, and the word must be 0. -/
theorem toNat_pushByte {w : Width} {x : Word (widthBits w)} {k : Byte}
    (h : k.toNat + 256 * x.toNat < 2 ^ widthBits w) :
    (addW (rotl x 8) (k.setWidth (widthBits w))).toNat = k.toNat + 256 * x.toNat := by
  have ge : 8 ≤ widthBits w := by have := widthBits_eq w; have := widthBytes_pos w; omega
  have top : x.toNat < 2 ^ (widthBits w - 8) := by
    rw [← Nat.pow_sub_mul_pow 2 ge] at h; omega
  have hr : (rotl x 8).toNat = 256 * x.toNat := by
    rw [rotl_eq_rotateLeft, BitVec.toNat_rotateLeft]
    rcases ge.eq_or_lt with narrow | wide
    · have hx : x.toNat = 0 := by
        rwa [show widthBits w - 8 = 0 by omega, Nat.pow_zero, Nat.lt_one_iff] at top
      simp [hx]
    · rw [Nat.mod_eq_of_lt wide, Nat.shiftRight_eq_div_pow, Nat.div_eq_of_lt top, Nat.or_zero, Nat.shiftLeft_eq,
        Nat.mul_comm, Nat.mod_eq_of_lt (by omega)]
  rw [addW, BitVec.toNat_add, hr, BitVec.toNat_setWidth, Nat.mod_eq_of_lt (by omega : k.toNat < 2 ^ widthBits w),
    Nat.add_comm, Nat.mod_eq_of_lt h]

/-- The words `L` after the loop has run over the bytes at index `n` and above. -/
structure KeyParsed (w : Width) (K : List Byte) (n : Nat) (L : List (Word (widthBits w))) : Prop where
  length : L.length = ceilDiv K.length (widthBytes w)
  value : ∀ j, (L.getD j 0).toNat = leValue (consumedBytes (widthBytes w) K n j)

theorem keyParsed_start (w : Width) (K : List Byte) :
    KeyParsed w K K.length (List.replicate (ceilDiv K.length (widthBytes w)) 0) where
  length := List.length_replicate
  value j := by
    rw [consumedBytes_length, List.getD_eq_getElem?_getD, List.getElem?_getD_replicate_default_eq]
    rfl

/-- The word that holds byte `i` of a key is one of its `ceil(b/u)` words. -/
theorem div_lt_ceilDiv {u i b : Nat} (hu : 0 < u) (hi : i < b) : i / u < ceilDiv b u := by
  have h : (i + u) / u ≤ (b + u - 1) / u := Nat.div_le_div_right (by omega)
  rwa [Nat.add_div_right i hu] at h

theorem keyParsed_step {w : Width} {K : List Byte} {i : Nat} {L : List (Word (widthBits w))} (hi : i < K.length)
    (h : KeyParsed w K (i + 1) L) : KeyParsed w K i (keyWordStep (widthBytes w) i (K.getD i 0) L) where
  length := by rw [keyWordStep, List.length_set, h.length]
  value j := by
    have hu := widthBytes_pos w
    rw [keyWordStep]
    rcases eq_or_ne (i / widthBytes w) j with rfl | hj
    · have own := consumedBytes_own hu hi
      have inRange : i / widthBytes w < L.length := h.length ▸ div_lt_ceilDiv hu hi
      have fits : (K.getD i 0).toNat + 256 * (L.getD (i / widthBytes w) 0).toNat < 2 ^ widthBits w := by
        calc _ = leValue (consumedBytes (widthBytes w) K i (i / widthBytes w)) := by rw [own, leValue, h.value]
          _ < 256 ^ (consumedBytes (widthBytes w) K i (i / widthBytes w)).length := leValue_lt _
          _ ≤ 256 ^ widthBytes w := Nat.pow_le_pow_right (by decide) (length_consumedBytes_le ..)
          _ = 2 ^ widthBits w := by rw [widthBits_eq, Nat.pow_mul]
      rw [List.getD_eq_getElem _ _ (by rwa [List.length_set]), List.getElem_set_self, toNat_pushByte fits, own, leValue,
        h.value]
    · rw [List.getD_eq_getElem?_getD, List.getElem?_set_ne hj, ← List.getD_eq_getElem?_getD, h.value,
        consumedBytes_other K hu hj]

theorem keyParsed_loop {w : Width} {K : List Byte} {n : Nat} {L : List (Word (widthBits w))} (hn : n ≤ K.length)
    (h : KeyParsed w K n L) : KeyParsed w K 0 (keyWordsLoop (widthBytes w) K n L) := by
  induction n generalizing L with
  | zero => exact h
  | succ i ih => exact ih (Nat.le_of_succ_le hn) (keyParsed_step hn h)

theorem keyParsed_keyWords (w : Width) (K : List Byte) : KeyParsed w K 0 (keyWords (widthBits w) K) :=
  keyParsed_loop le_rfl (keyParsed_start w K)

/-- Settles O25: the sum by induction on the bytes, and the key words by the invariant `KeyParsed` of the loop. -/
theorem keyWordsClosedForm : Obligations.KeyWordsClosedForm := by
  refine ⟨leValue_eq_sum, fun n v => ⟨length_leBytes n v, fun _ => toNat_getD_leBytes v⟩, fun w K => ?_⟩
  obtain ⟨length, value⟩ := keyParsed_keyWords w K
  exact ⟨length, fun j _ => by rw [value, consumedBytes_zero]⟩

end Sys2Proof.Machine
end

section
/-! PROOF. The step as five kinds of event, and the two invariants of the valid bits: R56, and the cache of R27 and R215.
The one idea is `ValidBitsStep`: a step that keeps or sets a valid bit keeps the inputs that the bit vouches for. -/

namespace Sys2Proof.Machine

/-! ### Words and bytes -/

theorem Memory.read_writeWord_outside (m : Memory) {o p : Nat} (v : Word32) (h : ¬(o ≤ p ∧ p < o + 4)) :
    (m.writeWord o v).read p = m.read p :=
  Memory.read_writeBytes_outside _ _ (by rwa [length_leBytes])

theorem State.read_setBout_outside (s : State) (w : Width) (x : Word (widthBits w) × Word (widthBits w)) {p : Nat}
    (h : ¬(0x060 ≤ p ∧ p < 0x080)) : (s.setBout w x).mem.read p = s.mem.read p :=
  Memory.read_writeBytes_outside _ _ (by rwa [length_blockBytes])

theorem State.read_keyclr_outside (s : State) {p : Nat} (h : ¬(0x100 ≤ p ∧ p < 0x200)) :
    (s.clearKey.complete .ok).mem.read p = s.mem.read p := by
  rw [State.complete_mem, State.clearKey_mem]
  exact Memory.read_writeBytes_outside _ _ (by rwa [length_zeroBytes])

/-! ### The events of a step -/

/-- The state in which a host access takes effect: it is off the host's list and counted (log entry 2). -/
@[simp] abbrev State.taken (s : State) (rest : List HostOp) : State := { s with host := rest, delay := s.delay - 1 }

/-- What a step is: a completion, an access that leaves the hardware alone, a reset, or a write. -/
inductive StepEvent (s t : State) : Prop where
  /-- A legal command completed. -/
  | executed (i : Instr) (hd : s.completionDue = true) (hf : decode s.pend = .ok i) (he : Executed s t i) : StepEvent s t
  /-- An illegal word completed (R134). -/
  | illegal (hd : s.completionDue = true) (ht : t = s.complete .illegalCommand) : StepEvent s t
  /-- A read, a turn of the polling loop, or nothing (R80, R112, R260). -/
  | observed (hd : s.completionDue = false) (hk : KeepsHardware s t) (hovr : t.ovr = s.ovr)
      (hbe : t.busErr = s.busErr ∨ (t.busErr = true ∧ ∃ o rest, HostReads s o rest ∧ readError o = true)) : StepEvent s t
  /-- Either reset (R270, R272). -/
  | reset (hr : ResetNext s) (rest : List HostOp) (ht : t = (s.taken rest).hardReset) : StepEvent s t
  /-- A write that is no soft reset (R73). -/
  | written (o : Nat) (v : Word32) (rest : List HostOp) (hw : HostWrites s o v rest)
      (hn : ¬(o = 0x00C ∧ v.getLsbD 1 = true)) (h : Written o v (s.taken rest) t) : StepEvent s t

/-- A read changes nothing of the hardware but BUSERR (R80). -/
theorem hostRead_keeps (o : Nat) (s : State) :
    KeepsHardware s (hostRead o s) ∧ (hostRead o s).ovr = s.ovr ∧
      ((hostRead o s).busErr = s.busErr ∨ ((hostRead o s).busErr = true ∧ readError o = true)) := by
  rcases hostRead_cases o s with ⟨he, h⟩ | ⟨-, h⟩ <;> rw [h]
  · exact ⟨⟨rfl, rfl, rfl, rfl, rfl, rfl, rfl, rfl, rfl, rfl, rfl, rfl, rfl⟩, rfl, .inr ⟨rfl, he⟩⟩
  · exact ⟨⟨rfl, rfl, rfl, rfl, rfl, rfl, rfl, rfl, rfl, rfl, rfl, rfl, rfl⟩, rfl, .inl rfl⟩

theorem keepsHardware_refl (s : State) : KeepsHardware s s :=
  ⟨rfl, rfl, rfl, rfl, rfl, rfl, rfl, rfl, rfl, rfl, rfl, rfl, rfl⟩

/-- Putting an operation back on the host's list is no hardware event. -/
theorem observed_host {s t : State} (hd : s.completionDue = false) (host : List HostOp) (hk : KeepsHardware s t)
    (hovr : t.ovr = s.ovr) (hbe : t.busErr = s.busErr) : StepEvent s { t with host := host } :=
  .observed hd hk hovr (.inl hbe)

theorem event_of_access {s t : State} {op : HostOp} {rest : List HostOp} (hd : s.completionDue = false)
    (hh : s.host = op :: rest) (hp : Performed (s.taken rest) t op) : StepEvent s t := by
  cases hp with
  | read o ho ht =>
    obtain ⟨hk, hovr, hbe⟩ := hostRead_keeps o (s.taken rest)
    subst ht
    exact .observed hd hk hovr (hbe.imp id fun ⟨hb, he⟩ => ⟨hb, o, rest, ⟨hd, hh, ho⟩, he⟩)
  | write o v ho ht =>
    subst ht
    by_cases hr : o = 0x00C ∧ v.getLsbD 1 = true
    · obtain ⟨rfl, hv⟩ := hr
      refine .reset ⟨hd, rest, .inr ⟨v, hv, hh⟩⟩ rest ?_
      rw [hostWrite_register (by decide) (r := .ctrl) (by decide) (by simp)]
      exact if_pos hv
    · exact .written o v rest ⟨hd, hh, ho⟩ hr (hostWrite_cases o v _)
  | wait ht =>
    obtain ⟨hk, hovr, hbe⟩ := hostRead_keeps 0x008 (s.taken rest)
    have hbe := hbe.resolve_right fun ⟨_, he⟩ => absurd he (by decide)
    subst ht
    split
    · exact observed_host hd _ hk hovr hbe
    · exact .observed hd hk hovr (.inl hbe)
  | reset ht => exact .reset ⟨hd, rest, .inl hh⟩ rest ht

theorem step_event {s t : State} (h : step s = .next t) : StepEvent s t := by
  cases step_cases h with
  | executed i hd hf he => exact .executed i hd hf he
  | illegal e hd hf ht => exact .illegal hd ht
  | idle hd hh ht => subst ht; exact .observed hd (keepsHardware_refl t) rfl (.inl rfl)
  | access op rest hd hh hp => exact event_of_access hd hh hp

/-! ### The bytes that a completion keeps -/

theorem executed_keepsOperandBytes {s t : State} {i : Instr} (h : Executed s t i) : KeepsOperandBytes s t := by
  intro o ho
  cases h <;> subst_vars
  case word => exact Memory.read_write128_outside _ _ (by omega)
  case cached => exact s.read_setBout_outside _ _ (by omega)
  case expanded => exact s.read_setBout_outside _ _ (by omega)
  case keyclr => exact s.read_keyclr_outside (by omega)
  all_goals rfl

theorem executed_keepsKey {s t : State} {i : Instr} (h : Executed s t i) (hi : i ≠ .keyclr) {o : Nat}
    (ho : 0x100 ≤ o) : t.mem.read o = s.mem.read o := by
  cases h <;> subst_vars
  case word => exact Memory.read_write128_outside _ _ (by omega)
  case cached => exact s.read_setBout_outside _ _ (by omega)
  case expanded => exact s.read_setBout_outside _ _ (by omega)
  case keyclr => exact absurd rfl hi
  all_goals rfl

/-! ### The inputs that the valid bits vouch for -/

/-- CFG, P_OVR and Q_OVR are kept (R26). -/
structure KeepsConfigInputs (s t : State) : Prop where
  cfg : t.cfg = s.cfg
  overrides : ∀ o, 0x020 ≤ o → o < 0x040 → t.mem.read o = s.mem.read o

/-- KLEN and KEY are kept as well (R27). -/
structure KeepsCacheInputs (s t : State) : Prop extends KeepsConfigInputs s t where
  klen : t.klen = s.klen
  key : ∀ o, 0x100 ≤ o → o < 0x200 → t.mem.read o = s.mem.read o

namespace KeepsConfigInputs

variable {s t : State} (h : KeepsConfigInputs s t)
include h

theorem active : t.active? = s.active? := active_congr h.cfg h.overrides

theorem configLegal : t.configLegal = s.configLegal := configLegal_congr h.cfg h.overrides

end KeepsConfigInputs

theorem KeepsCacheInputs.expandedKey {s t : State} (h : KeepsCacheInputs s t) {a : Active} (ha : a.b < 256) :
    t.expandedKey a = s.expandedKey a :=
  expandedKey_congr fun o h1 h2 => h.key o h1 (by omega)

theorem KeepsCacheInputs.of_mem {s t : State} (hc : t.cfg = s.cfg) (hl : t.klen = s.klen) (hm : t.mem = s.mem) :
    KeepsCacheInputs s t where
  cfg := hc
  overrides _ _ _ := by rw [hm]
  klen := hl
  key _ _ _ := by rw [hm]

theorem executed_keepsConfigInputs {s t : State} {i : Instr} (h : Executed s t i) : KeepsConfigInputs s t where
  cfg := by
    obtain ⟨-, -, -, hc, -⟩ := executed_keeps h
    exact hc
  overrides o h1 h2 := executed_keepsOperandBytes h o (.inl (by omega))

theorem executed_keepsCacheInputs {s t : State} {i : Instr} (h : Executed s t i) (hi : i ≠ .keyclr) :
    KeepsCacheInputs s t where
  toKeepsConfigInputs := executed_keepsConfigInputs h
  klen := by
    obtain ⟨-, -, -, -, hl, -⟩ := executed_keeps h
    exact hl
  key _ ho _ := executed_keepsKey h hi ho

/-! ### The valid bits of a step -/

/-- An idle engine accepts a write at one of the offsets `P`. -/
def IdleWrite (s : State) (P : Nat → Prop) : Prop := ∃ o v rest, HostWrites s o v rest ∧ s.busy = false ∧ P o

/-- The command `i` completes with success. -/
def Succeeds (s t : State) (i : Instr) : Prop := s.completionDue = true ∧ decode s.pend = .ok i ∧ t.err = .ok

/-- What a step can do to CFG_VALID and KEY_VALID, and what it then leaves of their inputs. -/
inductive ValidBitsStep (s t : State) : Prop where
  /-- Neither bit nor what they vouch for. -/
  | kept (hc : t.cfgValid = s.cfgValid) (hk : t.keyValid = s.keyValid) (hS : t.S = s.S) (hin : KeepsCacheInputs s t) :
      ValidBitsStep s t
  /-- CONFIGURE (R183). -/
  | configured (cause : Succeeds s t .configure) (hl : s.configLegal = true) (hc : t.cfgValid = true)
      (hk : t.keyValid = false) (hin : KeepsConfigInputs s t) : ValidBitsStep s t
  /-- An expansion of the key (R190, R216). -/
  | filled (i : Instr) (hi : i = .keyexp ∨ isBlock i = true) (cause : Succeeds s t i) (a : Active)
      (hv : s.cfgValid = true) (ha : s.active? = some a) (hl : s.klen.toNat = a.b)
      (hS : t.S = (s.expandedKey a).map zext128 ++ s.S.drop (s.expandedKey a).length) (hc : t.cfgValid = true)
      (hk : t.keyValid = true) (hin : KeepsCacheInputs s t) : ValidBitsStep s t
  /-- KEYCLR, or a write to KLEN or KEY (R27). -/
  | keyDropped (cause : Succeeds s t .keyclr ∨ IdleWrite s fun o => o = 0x014 ∨ (0x100 ≤ o ∧ o < 0x200))
      (hc : t.cfgValid = s.cfgValid) (hk : t.keyValid = false) (hin : KeepsConfigInputs s t) : ValidBitsStep s t
  /-- A reset, or a write to CFG, P_OVR or Q_OVR (R26). -/
  | configDropped (cause : ResetNext s ∨ IdleWrite s fun o => o = 0x010 ∨ (0x020 ≤ o ∧ o < 0x040))
      (hc : t.cfgValid = false) (hk : t.keyValid = false) : ValidBitsStep s t

theorem isBlock_of_eq {i : Instr} {len : Nat} (h : i = .encrypt len ∨ i = .decrypt len) : isBlock i = true := by
  rcases h with rfl | rfl <;> rfl

theorem isBlock_ne_keyclr {i : Instr} (h : isBlock i = true) : i ≠ .keyclr := by
  rintro rfl
  simp [isBlock] at h

/-- The commands of `Executed.word` are the word-unit commands. -/
theorem isWordUnit_of_eq {i : Instr} {w : Width}
    (h : i = .wbuild w ∨ (∃ v2, i = .wadd w v2) ∨ (∃ v2, i = .wsub w v2) ∨ (∃ v2, i = .wrotl w v2) ∨
      (∃ v2, i = .wrotr w v2) ∨ (∃ v2, i = .wand w v2) ∨ (∃ v2, i = .wor w v2) ∨ (∃ v2, i = .wxor w v2) ∨
      (∃ v2, i = .weq w v2)) : isWordUnit i = true := by
  rcases h with rfl | ⟨_, rfl⟩ | ⟨_, rfl⟩ | ⟨_, rfl⟩ | ⟨_, rfl⟩ | ⟨_, rfl⟩ | ⟨_, rfl⟩ | ⟨_, rfl⟩ | ⟨_, rfl⟩ <;> rfl

theorem isWordUnit_ne_keyclr {i : Instr} (h : isWordUnit i = true) : i ≠ .keyclr := by
  rintro rfl
  simp [isWordUnit] at h

theorem executed_validBits {s t : State} {i : Instr} (hd : s.completionDue = true) (hf : decode s.pend = .ok i)
    (h : Executed s t i) : ValidBitsStep s t := by
  have hin := executed_keepsConfigInputs h
  have hkey := executed_keepsCacheInputs h
  cases h <;> subst t
  case failed => exact .kept rfl rfl rfl (.of_mem rfl rfl rfl)
  case nop => exact .kept rfl rfl rfl (.of_mem rfl rfl rfl)
  case configure hl => exact .configured ⟨hd, hf, rfl⟩ hl rfl rfl hin
  case keyexp a hv ha hl => exact .filled _ (.inl rfl) ⟨hd, hf, rfl⟩ a hv ha hl rfl hv rfl (hkey (by simp))
  case keyclr => exact .keyDropped (.inl ⟨hd, hf, rfl⟩) rfl rfl hin
  case cached a hv ha hk x hi => exact .kept rfl rfl rfl (hkey (isBlock_ne_keyclr (isBlock_of_eq hi)))
  case expanded a hv ha hk hl x hi =>
    have hb := isBlock_of_eq hi
    exact .filled _ (.inr hb) ⟨hd, hf, rfl⟩ a hv ha hl rfl hv rfl (hkey (isBlock_ne_keyclr hb))
  case word w z hi => exact .kept rfl rfl rfl (hkey (isWordUnit_ne_keyclr (isWordUnit_of_eq hi)))

theorem written_validBits {s t : State} {o : Nat} {v : Word32} {rest : List HostOp} (hw : HostWrites s o v rest)
    (hn : ¬(o = 0x00C ∧ v.getLsbD 1 = true)) (h : Written o v (s.taken rest) t) : ValidBitsStep s t := by
  cases h <;> subst t
  case accessError => exact .kept rfl rfl rfl (.of_mem rfl rfl rfl)
  case dropped => exact .kept rfl rfl rfl (.of_mem rfl rfl rfl)
  case cmd => exact .kept rfl rfl rfl (.of_mem rfl rfl rfl)
  case status => exact .kept rfl rfl rfl (.of_mem rfl rfl rfl)
  case ie => exact .kept rfl rfl rfl (.of_mem rfl rfl rfl)
  case srst ho hv => exact absurd ⟨ho, hv⟩ hn
  case cfg ho hb => exact .configDropped (.inr ⟨o, v, rest, hw, hb, .inl ho⟩) rfl rfl
  case klen ho hb => exact .keyDropped (.inr ⟨o, v, rest, hw, hb, .inl ho⟩) rfl rfl ⟨rfl, fun _ _ _ => rfl⟩
  case override hr hb => exact .configDropped (.inr ⟨o, v, rest, hw, hb, .inr hr⟩) rfl rfl
  case key hr hb =>
    exact .keyDropped (.inr ⟨o, v, rest, hw, hb, .inr hr⟩) rfl rfl
      ⟨rfl, fun p _ _ => Memory.read_writeWord_outside _ _ (by omega)⟩
  case data ha hr hb =>
    refine .kept rfl rfl rfl ⟨⟨rfl, fun p _ _ => ?_⟩, rfl, fun p _ _ => ?_⟩ <;>
      exact Memory.read_writeWord_outside _ _ (by omega)

/-- The inversion lemma of the valid bits. -/
theorem step_validBits {s t : State} (h : step s = .next t) : ValidBitsStep s t := by
  cases step_event h with
  | executed i hd hf he => exact executed_validBits hd hf he
  | illegal hd ht => subst ht; exact .kept rfl rfl rfl (.of_mem rfl rfl rfl)
  | observed hd hk hovr hbe =>
    obtain ⟨-, hcv, hkv, -, -, -, hc, hl, hm, hS, -⟩ := hk
    exact .kept hcv hkv hS (.of_mem hc hl hm)
  | reset hr rest ht => subst ht; exact .configDropped (.inl hr) rfl rfl
  | written o v rest hw hn hwr => exact written_validBits hw hn hwr

/-! ### R56 -/

/-- A legal configuration is accepted. -/
theorem exec_configure_of_legal {s : State} (h : s.configLegal = true) :
    exec .configure s = .next ({ s with cfgValid := true, keyValid := false }.complete .ok) := by
  simp only [exec, execConfigure, h, ↓reduceIte, finish_ok]

theorem reset_configConsistent : State.reset.ConfigConsistent := ⟨nofun, nofun⟩

theorem step_keeps_configConsistent {s t : State} (hs : s.ConfigConsistent) (h : step s = .next t) :
    t.ConfigConsistent := by
  obtain ⟨hkey, hlegal⟩ := hs
  cases step_validBits h with
  | kept hc hk _ hin => exact ⟨by rwa [hk, hc], by rwa [hc, hin.configLegal]⟩
  | configured _ hl _ hk hin => exact ⟨by simp [hk], fun _ => by rwa [hin.configLegal]⟩
  | filled _ _ _ _ hv _ _ _ hc _ hin => exact ⟨fun _ => hc, fun _ => by rw [hin.configLegal]; exact hlegal hv⟩
  | keyDropped _ hc hk hin => exact ⟨by simp [hk], by rwa [hc, hin.configLegal]⟩
  | configDropped _ hc hk => exact ⟨by simp [hk], by simp [hc]⟩

/-- Settles O51: by cases on what the step does to the valid bits. -/
theorem stepKeepsConfigConsistent : Obligations.StepKeepsConfigConsistent := by
  refine ⟨reset_configConsistent, fun _ _ => step_keeps_configConsistent, fun s t hs h herr => ?_⟩
  obtain ⟨hkey, hlegal⟩ := hs
  have hc : s.cfgValid = false := by
    by_contra hc
    rw [exec_configure_of_legal (hlegal (by simpa using hc)), Host.Outcome.next.injEq] at h
    exact herr (h ▸ rfl)
  exact ⟨hc, by simpa [hc] using hkey⟩

/-! ### R27 -/

/-- Settles O52: a step that leaves KEY_VALID at 1 keeps the inputs of the expansion, and keeps the table or fills it
from them. -/
theorem stepKeepsCacheFresh : Obligations.StepKeepsCacheFresh := by
  intro s t hs h hkt
  cases step_validBits h with
  | kept _ hk hS hin =>
    obtain ⟨a, ha, hl, htab⟩ := hs (hk ▸ hkt)
    exact ⟨a, by rw [hin.active, ha], by rw [hin.klen, hl], by rw [hS, htab, hin.expandedKey (active_bounds ha).1]⟩
  | filled _ _ _ a _ ha hl hS _ _ hin =>
    refine ⟨a, by rw [hin.active, ha], by rw [hin.klen, hl], ?_⟩
    rw [hS, hin.expandedKey (active_bounds ha).1, ← length_expandedKey s a]
    exact take_fillTable (s.expandedKey a) s
  | configured _ _ _ hk _ => simp [hk] at hkt
  | keyDropped _ _ hk _ => simp [hk] at hkt
  | configDropped _ _ hk => simp [hk] at hkt

end Sys2Proof.Machine
end

section
/-! PROOF. The lifecycle of a command, the sizes of the tables, and every invariant at reset. -/

namespace Sys2Proof.Machine

/-! ### BUSY, DONE and ERR -/

/-- What a step can do to BUSY, DONE and ERR. -/
inductive LifecycleStep (s t : State) : Prop where
  /-- None of them changes. -/
  | kept (hd : s.completionDue = false) (hb : t.busy = s.busy) (hdone : t.done = s.done) (he : t.err = s.err) :
      LifecycleStep s t
  /-- A completion (R132). -/
  | completed (hd : s.completionDue = true) (hb : t.busy = false) (hdone : t.done = true) : LifecycleStep s t
  /-- Either reset (R270, R272). -/
  | reset (hr : ResetNext s) (hb : t.busy = false) (hdone : t.done = false) : LifecycleStep s t
  /-- A command accepted (R130). -/
  | accepted (v : Word32) (rest : List HostOp) (hw : HostWrites s 0x004 v rest) (hidle : s.busy = false)
      (hp : t.pend = v) (hb : t.busy = true) (hdone : t.done = false) (he : t.err = s.err) : LifecycleStep s t
  /-- A write to STATUS (R32). -/
  | cleared (v : Word32) (rest : List HostOp) (hw : HostWrites s 0x008 v rest) (hb : t.busy = s.busy)
      (hdone : t.done = (s.done && !v.getLsbD 3)) (he : t.err = s.err) : LifecycleStep s t

theorem written_lifecycle {s t : State} {o : Nat} {v : Word32} {rest : List HostOp} (hw : HostWrites s o v rest)
    (hn : ¬(o = 0x00C ∧ v.getLsbD 1 = true)) (h : Written o v (s.taken rest) t) : LifecycleStep s t := by
  have ⟨hd, _, _⟩ := hw
  cases h <;> subst t
  case cmd ho hb => subst ho; exact .accepted v rest hw hb rfl rfl rfl rfl
  case status ho => subst ho; exact .cleared v rest hw rfl rfl rfl
  case srst ho hv => exact absurd ⟨ho, hv⟩ hn
  all_goals exact .kept hd rfl rfl rfl

/-- The inversion lemma of BUSY, DONE and ERR. -/
theorem step_lifecycle {s t : State} (h : step s = .next t) : LifecycleStep s t := by
  cases step_event h with
  | executed i hd hf he =>
    obtain ⟨hb, hdone⟩ := executed_status he
    exact .completed hd hb hdone
  | illegal hd ht => subst ht; exact .completed hd rfl rfl
  | observed hd hk hovr hbe =>
    obtain ⟨hb, -, -, hdone, he, -⟩ := hk
    exact .kept hd hb hdone he
  | reset hr rest ht => subst ht; exact .reset hr rfl rfl
  | written o v rest hw hn hwr => exact written_lifecycle hw hn hwr

theorem step_keeps_busyNotDone {s t : State} (h : step s = .next t) (hs : s.BusyNotDone) : t.BusyNotDone := by
  intro hbusy
  cases step_lifecycle h with
  | kept _ hb hdone _ => rw [hdone, hs (hb ▸ hbusy)]
  | completed _ hb _ => simp [hb] at hbusy
  | reset _ _ hdone => exact hdone
  | accepted _ _ _ _ _ _ hdone _ => exact hdone
  | cleared v _ _ hb hdone _ => rw [hdone, hs (hb ▸ hbusy), Bool.false_and]

/-! ### The sizes of S and L -/

@[simp] theorem length_unspecifiedS (n : Nat) : (unspecifiedS n).length = Config.tMax := by simp [unspecifiedS]

@[simp] theorem length_unspecifiedL (n : Nat) : (unspecifiedL n).length = Config.cMax := by simp [unspecifiedL]

/-- An expanded key fits the table (R191). -/
theorem length_expandedKey_le {s : State} {a : Active} (ha : s.active? = some a) :
    (s.expandedKey a).length ≤ Config.tMax := by
  have hr := (active_bounds ha).2
  rw [length_expandedKey, Active.t, Config.tMax]
  omega

theorem fillTable_tablesSized {s : State} {w : Nat} {T : List (Word w)} (hs : s.TablesSized)
    (hT : T.length ≤ Config.tMax) : (s.fillTable T).TablesSized := by
  obtain ⟨hS, -⟩ := hs
  refine ⟨?_, length_unspecifiedL _⟩
  rw [State.fillTable_S, List.length_append, List.length_map, List.length_drop, hS]
  omega

theorem hardReset_tablesSized (s : State) : s.hardReset.TablesSized := by
  simp [State.TablesSized]

theorem executed_tablesSized {s t : State} {i : Instr} (hs : s.TablesSized) (h : Executed s t i) : t.TablesSized := by
  cases h <;> subst t
  case keyexp a hv ha hk => exact fillTable_tablesSized hs (length_expandedKey_le ha)
  case expanded a hv ha hk hl x hi => exact fillTable_tablesSized (s := s.setBout a.w x) hs (length_expandedKey_le ha)
  case keyclr => exact ⟨List.length_replicate, List.length_replicate⟩
  all_goals exact hs

theorem written_tablesSized {s t : State} {o : Nat} {v : Word32} (hs : s.TablesSized) (h : Written o v s t) :
    t.TablesSized := by
  cases h <;> subst t
  case srst => exact hardReset_tablesSized _
  all_goals exact hs

theorem step_keeps_tablesSized {s t : State} (h : step s = .next t) (hs : s.TablesSized) : t.TablesSized := by
  cases step_event h with
  | executed i hd hf he => exact executed_tablesSized hs he
  | illegal hd ht => subst ht; exact hs
  | observed hd hk hovr hbe =>
    obtain ⟨-, -, -, -, -, -, -, -, -, hS, hL, -⟩ := hk
    rwa [State.TablesSized, hS, hL]
  | reset hr rest ht => subst ht; exact hardReset_tablesSized _
  | written o v rest hw hn hwr => exact written_tablesSized (s := s.taken rest) hs hwr

/-- Settles O50: the two step lemmas. -/
theorem stepKeepsTablesAndLifecycle : Obligations.StepKeepsTablesAndLifecycle :=
  fun _ _ h => ⟨step_keeps_tablesSized h, step_keeps_busyNotDone h⟩

/-- Settles O48: at reset no byte is stored, the tables have their sizes and no STATUS bit is set. -/
theorem resetMeetsInvariant : Obligations.ResetMeetsInvariant where
  memory := ⟨⟨.nil, nofun⟩, nofun⟩
  tables := ⟨List.length_replicate, List.length_replicate⟩
  lifecycle := nofun
  config := reset_configConsistent
  cache := nofun

end Sys2Proof.Machine
end

section
/-! PROOF. Which events change the STATUS bits and the outputs, read off what a step can do. -/

namespace Sys2Proof.Machine

/-- Settles O53: by cases on what the step does to the valid bits. -/
theorem validBitsChangeOnlyBy : Obligations.ValidBitsChangeOnlyBy := by
  intro s t h
  cases step_validBits h with
  | kept hc hk _ _ => simp +contextual [hc, hk]
  | configured cause _ hc hk _ =>
    obtain ⟨hd, hf, he⟩ := cause
    simp +contextual [hc, hk, hd, hf, he]
  | filled i hi cause _ hv _ _ _ hc hk _ =>
    obtain ⟨hd, hf, he⟩ := cause
    simp +contextual [hc, hk, hv, hd, he, hf, hi]
  | keyDropped cause hc hk _ =>
    refine ⟨by simp +contextual [hc], by simp +contextual [hc], by simp [hk], fun _ _ => .inr ?_⟩
    rcases cause with ⟨hd, hf, he⟩ | ⟨o, v, rest, hw, hb, ho⟩
    · exact .inr ⟨hd, he, .inr hf⟩
    · exact .inl ⟨o, v, rest, hw, hb, by omega⟩
  | configDropped cause hc hk =>
    refine ⟨by simp [hc], fun _ _ => cause, by simp [hk], fun _ _ => ?_⟩
    rcases cause with hr | ⟨o, v, rest, hw, hb, ho⟩
    · exact .inl hr
    · exact .inr (.inl ⟨o, v, rest, hw, hb, by omega⟩)

/-- Settles O54: by cases on what the step does to BUSY, DONE and ERR. -/
theorem lifecycleBitsChangeOnlyBy : Obligations.LifecycleBitsChangeOnlyBy := by
  intro s t h
  cases step_lifecycle h with
  | kept hd hb hdone he => simp +contextual [hd, hb, hdone, he]
  | completed hd hb hdone => simp [hd, hb, hdone]
  | reset hr hb hdone => simp [hr, hr.1, hb, hdone]
  | accepted v rest hw hidle hp hb hdone he =>
    exact ⟨by simp [hw.1], fun _ _ => ⟨v, rest, hw, hp, hdone⟩, by simp [hb], by simp [hdone],
      fun _ _ => .inr (.inl ⟨v, rest, hw, hidle⟩), fun hne => absurd he hne⟩
  | cleared v rest hw hb hdone he =>
    refine ⟨by simp [hw.1], by simp +contextual [hb], by simp +contextual [hb], by simp +contextual [hdone],
      fun h1 h0 => .inr (.inr ⟨v, rest, hw, ?_⟩), fun hne => absurd he hne⟩
    simpa [hdone, h1] using h0

/-! ### OVR and BUSERR -/

/-- What a step can do to OVR and BUSERR. -/
inductive StickyStep (s t : State) : Prop where
  /-- Neither changes. -/
  | kept (ho : t.ovr = s.ovr) (hb : t.busErr = s.busErr) : StickyStep s t
  /-- Either reset (R270, R272). -/
  | reset (hr : ResetNext s) (ho : t.ovr = false) (hb : t.busErr = false) : StickyStep s t
  /-- An access error of a read (R79). -/
  | readError (o : Nat) (rest : List HostOp) (hr : HostReads s o rest) (he : o % 4 ≠ 0 ∨ isReserved o)
      (ho : t.ovr = s.ovr) (hb : t.busErr = true) : StickyStep s t
  /-- An access error of a write (R79). -/
  | writeError (o : Nat) (v : Word32) (rest : List HostOp) (hw : HostWrites s o v rest)
      (he : o % 4 ≠ 0 ∨ isReserved o ∨ isReadOnly o) (ho : t.ovr = s.ovr) (hb : t.busErr = true) : StickyStep s t
  /-- A write dropped as busy (R280). -/
  | dropped (o : Nat) (v : Word32) (rest : List HostOp) (hw : HostWrites s o v rest) (hbusy : s.busy = true)
      (h8 : o ≠ 0x008) (hC : o ≠ 0x00C) (ho : t.ovr = true) (hb : t.busErr = s.busErr) : StickyStep s t
  /-- A write to STATUS (R32). -/
  | cleared (v : Word32) (rest : List HostOp) (hw : HostWrites s 0x008 v rest) (ho : t.ovr = (s.ovr && !v.getLsbD 8))
      (hb : t.busErr = (s.busErr && !v.getLsbD 9)) : StickyStep s t

theorem written_sticky {s t : State} {o : Nat} {v : Word32} {rest : List HostOp} (hw : HostWrites s o v rest)
    (hn : ¬(o = 0x00C ∧ v.getLsbD 1 = true)) (h : Written o v (s.taken rest) t) : StickyStep s t := by
  have ⟨_, _, hlt⟩ := hw
  cases h <;> subst t
  case accessError he => exact .writeError o v rest hw ((writeError_iff o hlt).mp he) rfl rfl
  case dropped he hb hs hc =>
    exact .dropped o v rest hw hb (by rintro rfl; exact hs (by decide)) (by rintro rfl; exact hc (by decide)) rfl rfl
  case status ho => subst ho; exact .cleared v rest hw rfl rfl
  case srst ho hv => exact absurd ⟨ho, hv⟩ hn
  all_goals exact .kept rfl rfl

/-- The inversion lemma of OVR and BUSERR. -/
theorem step_sticky {s t : State} (h : step s = .next t) : StickyStep s t := by
  cases step_event h with
  | executed i hd hf he =>
    obtain ⟨ho, hb, -⟩ := executed_keeps he
    exact .kept ho hb
  | illegal hd ht => subst ht; exact .kept rfl rfl
  | observed hd hk hovr hbe =>
    rcases hbe with hb | ⟨hb, o, rest, hr, he⟩
    · exact .kept hovr hb
    · exact .readError o rest hr ((readError_iff o hr.2.2).mp he) hovr hb
  | reset hr rest ht => subst ht; exact .reset hr rfl rfl
  | written o v rest hw hn hwr => exact written_sticky hw hn hwr

/-- Settles O55: by cases on what the step does to OVR and BUSERR. -/
theorem stickyBitsChangeOnlyBy : Obligations.StickyBitsChangeOnlyBy := by
  intro s t h
  cases step_sticky h with
  | kept ho hb => simp +contextual [ho, hb]
  | reset hr ho hb => simp [hr, ho, hb]
  | readError o rest hr he ho hb =>
    exact ⟨by simp +contextual [ho], by simp +contextual [ho], fun _ _ => .inl ⟨o, rest, hr, he⟩, by simp [hb]⟩
  | writeError o v rest hw he ho hb =>
    exact ⟨by simp +contextual [ho], by simp +contextual [ho], fun _ _ => .inr ⟨o, v, rest, hw, he⟩,
      by simp [hb]⟩
  | dropped o v rest hw hbusy h8 hC ho hb =>
    exact ⟨fun _ _ => ⟨hbusy, o, v, rest, hw, h8, hC⟩, by simp [ho], by simp +contextual [hb],
      by simp +contextual [hb]⟩
  | cleared v rest hw ho hb =>
    refine ⟨by simp +contextual [ho], fun h1 h0 => .inr ⟨v, rest, hw, ?_⟩, by simp +contextual [hb],
      fun h1 h0 => .inr ⟨v, rest, hw, ?_⟩⟩
    · simpa [ho, h1] using h0
    · simpa [hb, h1] using h0

/-! ### BOUT, WZ and S -/

/-- The bytes of BOUT and of WZ, and S. -/
structure KeepsOutputs (s t : State) : Prop where
  bout : ∀ p, 0x060 ≤ p → p < 0x080 → t.mem.read p = s.mem.read p
  wz : ∀ p, 0x0A0 ≤ p → p < 0x0B0 → t.mem.read p = s.mem.read p
  table : t.S = s.S

theorem KeepsOutputs.of_eq {s t : State} (hm : t.mem = s.mem) (hS : t.S = s.S) : KeepsOutputs s t :=
  ⟨fun _ _ _ => by rw [hm], fun _ _ _ => by rw [hm], hS⟩

theorem written_keepsOutputs {s t : State} {o : Nat} {v : Word32} (hn : ¬(o = 0x00C ∧ v.getLsbD 1 = true))
    (h : Written o v s t) : KeepsOutputs s t := by
  cases h <;> subst t
  case srst ho hv => exact absurd ⟨ho, hv⟩ hn
  case override ha hr hb =>
    refine ⟨fun p _ _ => ?_, fun p _ _ => ?_, rfl⟩ <;> exact Memory.read_writeWord_outside _ _ (by omega)
  case key ha hr hb =>
    refine ⟨fun p _ _ => ?_, fun p _ _ => ?_, rfl⟩ <;> exact Memory.read_writeWord_outside _ _ (by omega)
  case data ha hr hb =>
    refine ⟨fun p _ _ => ?_, fun p _ _ => ?_, rfl⟩ <;> exact Memory.read_writeWord_outside _ _ (by omega)
  all_goals exact .of_eq rfl rfl

/-- But for a reset, only a command changes an output. -/
theorem step_keepsOutputs {s t : State} (h : step s = .next t) (hr : ¬ResetNext s) :
    KeepsOutputs s t ∨ ∃ i, s.completionDue = true ∧ decode s.pend = .ok i ∧ Executed s t i := by
  cases step_event h with
  | executed i hd hf he => exact .inr ⟨i, hd, hf, he⟩
  | illegal hd ht => subst ht; exact .inl (.of_eq rfl rfl)
  | observed hd hk hovr hbe =>
    obtain ⟨-, -, -, -, -, -, -, -, hm, hS, -⟩ := hk
    exact .inl (.of_eq hm hS)
  | reset hr' rest ht => exact absurd hr' hr
  | written o v rest hw hn hwr =>
    obtain ⟨hb, hz, hS⟩ := written_keepsOutputs hn hwr
    exact .inl ⟨hb, hz, hS⟩

/-- Only a block command writes BOUT (R44). -/
theorem executed_bout {s t : State} {i : Instr} (h : Executed s t i) :
    (t.err = .ok ∧ isBlock i = true) ∨ ∀ p, 0x060 ≤ p → p < 0x080 → t.mem.read p = s.mem.read p := by
  cases h <;> subst t
  case cached hi => exact .inl ⟨rfl, isBlock_of_eq hi⟩
  case expanded hi => exact .inl ⟨rfl, isBlock_of_eq hi⟩
  case word => exact .inr fun p _ _ => Memory.read_write128_outside _ _ (by omega)
  case keyclr => exact .inr fun p _ _ => s.read_keyclr_outside (by omega)
  all_goals exact .inr fun _ _ _ => rfl

/-- Only a word-unit command writes WZ (R46). -/
theorem executed_wz {s t : State} {i : Instr} (h : Executed s t i) :
    (t.err = .ok ∧ isWordUnit i = true) ∨ ∀ p, 0x0A0 ≤ p → p < 0x0B0 → t.mem.read p = s.mem.read p := by
  cases h <;> subst t
  case word hi => exact .inl ⟨rfl, isWordUnit_of_eq hi⟩
  case cached => exact .inr fun p _ _ => s.read_setBout_outside _ _ (by omega)
  case expanded => exact .inr fun p _ _ => s.read_setBout_outside _ _ (by omega)
  case keyclr => exact .inr fun p _ _ => s.read_keyclr_outside (by omega)
  all_goals exact .inr fun _ _ _ => rfl

/-- Only an expansion and KEYCLR write S (R48). -/
theorem executed_table {s t : State} {i : Instr} (h : Executed s t i) :
    (t.err = .ok ∧ (i = .keyexp ∨ i = .keyclr ∨ (isBlock i = true ∧ s.keyValid = false))) ∨ t.S = s.S := by
  cases h <;> subst t
  case keyexp => exact .inl ⟨rfl, .inl rfl⟩
  case keyclr => exact .inl ⟨rfl, .inr (.inl rfl)⟩
  case expanded hk _ _ hi => exact .inl ⟨rfl, .inr (.inr ⟨isBlock_of_eq hi, hk⟩)⟩
  all_goals exact .inr rfl

/-- Settles O56: a step that keeps the outputs changes none, and a command writes the ones of its family. -/
theorem outputsChangeOnlyBy : Obligations.OutputsChangeOnlyBy := by
  intro s t h hr
  rcases step_keepsOutputs h hr with ⟨hb, hz, hS⟩ | ⟨i, hd, hf, he⟩
  · exact ⟨fun hne => absurd (Memory.readBytes_congr hb) hne, fun hne => absurd (Memory.read128_congr hz) hne,
      fun hne => absurd hS hne⟩
  · refine ⟨fun hne => ?_, fun hne => ?_, fun hne => ?_⟩
    · obtain ⟨herr, hi⟩ := (executed_bout he).resolve_right fun hb => hne (Memory.readBytes_congr hb)
      exact ⟨hd, herr, i, hf, hi⟩
    · obtain ⟨herr, hi⟩ := (executed_wz he).resolve_right fun hz => hne (Memory.read128_congr hz)
      exact ⟨hd, herr, i, hf, hi⟩
    · obtain ⟨herr, hi⟩ := (executed_table he).resolve_right hne
      exact ⟨hd, herr, i, hf, hi⟩

end Sys2Proof.Machine
end

section
/-! PROOF. What the window shows: the fields of the registers at their bits (R24, R33, R34, R40), the stored bytes, and
that KEY and the tables cannot be read (R42, R48 to R50, R259). -/

namespace Sys2Proof.Machine

/-! ### Fields of a word given as a number -/

theorem getLsbD_ofNat_of_div {n i : Nat} {b : Bool} (hi : i < 32) (h : n / 2 ^ i % 2 = b.toNat) :
    (BitVec.ofNat 32 n).getLsbD i = b := by
  rw [BitVec.getLsbD_ofNat, Nat.testBit_eq_decide_div_mod_eq, h]
  cases b <;> simp [hi]

theorem slice_ofNat {n : Nat} (h : n < 2 ^ 32) (hi lo : Nat) :
    slice (BitVec.ofNat 32 n) hi lo = n / 2 ^ lo % 2 ^ (hi - lo + 1) := by
  rw [slice, BitVec.toNat_ofNat, Nat.mod_eq_of_lt h]

theorem errValue_le (e : ErrCode) : errValue e ≤ 6 := by cases e <;> decide

/-- The codes of R240. -/
theorem errValue_code :
    ∀ c ∈ [(ErrCode.ok, 0), (.configError, 1), (.keyLengthError, 2), (.bufferBoundsError, 3), (.notConfigured, 4),
      (.widthError, 5), (.illegalCommand, 6)], errValue c.1 = c.2 := by
  decide

/-- STATUS shows its fields at their bits (R24). -/
theorem statusWord_fields (s : State) :
    s.statusWord.getLsbD 0 = s.busy ∧ s.statusWord.getLsbD 1 = s.cfgValid ∧ s.statusWord.getLsbD 2 = s.keyValid ∧
      s.statusWord.getLsbD 3 = s.done ∧ slice s.statusWord 7 4 = errValue s.err ∧ s.statusWord.getLsbD 8 = s.ovr ∧
      s.statusWord.getLsbD 9 = s.busErr ∧ slice s.statusWord 31 10 = 0 := by
  have busy := s.busy.toNat_le
  have cfgValid := s.cfgValid.toNat_le
  have keyValid := s.keyValid.toNat_le
  have done := s.done.toNat_le
  have err := errValue_le s.err
  have ovr := s.ovr.toNat_le
  have busErr := s.busErr.toNat_le
  unfold State.statusWord
  refine ⟨?_, ?_, ?_, ?_, ?_, ?_, ?_, ?_⟩
  case refine_5 => rw [slice_ofNat (by omega)]; omega
  case refine_8 => rw [slice_ofNat (by omega)]; omega
  all_goals exact getLsbD_ofNat_of_div (by decide) (by omega)

/-- CTRL shows IE, and 0 in SRST and its reserved bits (R33). -/
theorem ctrlWord_fields (s : State) :
    s.ctrlWord.getLsbD 0 = s.ie ∧ slice s.ctrlWord 31 1 = 0 ∧ s.ctrlWord.toNat = s.ie.toNat := by
  have ie := s.ie.toNat_le
  unfold State.ctrlWord
  refine ⟨getLsbD_ofNat_of_div (by decide) (by omega), ?_, ?_⟩
  · rw [slice_ofNat (by omega)]; omega
  · rw [BitVec.toNat_ofNat]; omega

/-- CFG shows its fields at their bits (R34). -/
theorem cfgWord_fields (c : Cfg) :
    slice c.word 2 0 = c.ws.toNat ∧ slice c.word 7 3 = 0 ∧ slice c.word 15 8 = c.rounds.toNat ∧
      slice c.word 23 16 = c.keyBytes.toNat ∧ c.word.getLsbD 24 = c.pqovr ∧ slice c.word 31 25 = 0 := by
  have ws := c.ws.isLt
  have rounds := c.rounds.isLt
  have keyBytes := c.keyBytes.isLt
  have pqovr := c.pqovr.toNat_le
  unfold Cfg.word
  refine ⟨?_, ?_, ?_, ?_, getLsbD_ofNat_of_div (by decide) (by omega), ?_⟩ <;>
    rw [slice_ofNat (by omega)] <;> omega

theorem toNat_klenWord (s : State) : s.klenWord.toNat = s.klen.toNat := by
  have := s.klen.isLt
  rw [State.klenWord, BitVec.toNat_setWidth]
  omega

theorem Memory.toNat_readWord (m : Memory) (o : Nat) :
    (m.readWord o).toNat = (m.read o).toNat + (m.read (o + 1)).toNat * 2 ^ 8 + (m.read (o + 2)).toNat * 2 ^ 16
      + (m.read (o + 3)).toNat * 2 ^ 24 := by
  have h0 := (m.read o).isLt
  have h1 := (m.read (o + 1)).isLt
  have h2 := (m.read (o + 2)).isLt
  have h3 := (m.read (o + 3)).isLt
  simp only [Memory.readWord, Memory.readBytes, leValue, BitVec.toNat_ofNat, Nat.add_assoc, Nat.reduceAdd]
  omega

theorem Memory.readWord_congr {m m' : Memory} {o : Nat} (h : ∀ p, o ≤ p → p < o + 4 → m.read p = m'.read p) :
    m.readWord o = m'.readWord o := by
  rw [Memory.readWord, Memory.readWord, Memory.readBytes_congr h]

/-! ### The registers of the window -/

/-- Every byte of a row of the register map belongs to the row's register (R75). -/
theorem registerAt_row_bytes : ∀ row ∈ registerMap, ∀ k < row.size, registerAt (row.lo + k) = some row.reg := by
  decide +kernel

theorem registerAt_of_row {row : MapRow} {o : Nat} (hm : row ∈ registerMap) (hlo : row.lo ≤ o)
    (hhi : o < row.lo + row.size) : registerAt o = some row.reg := by
  have h := registerAt_row_bytes row hm (o - row.lo) (by omega)
  rwa [Nat.add_sub_cancel' hlo] at h

/-- Above WZ there is only KEY, which reads 0, and offsets in no row (R42, R75). -/
theorem windowWord_hidden (s : State) {o : Nat} (h : 0x0B0 ≤ o) : s.windowWord o = 0 := by
  unfold State.windowWord
  cases hr : registerAt o with
  | none => rfl
  | some r =>
    have hrange := registerAt_range hr
    cases r <;> simp at hrange
    case key => rfl
    all_goals omega

theorem registerAt_storage_ne_none : ∀ k < 0x090, registerAt (0x020 + k) ≠ none := by decide +kernel

/-- P_OVR to WZ are read from their bytes (R41 to R46). -/
theorem windowWord_storage (s : State) {o : Nat} (h1 : 0x020 ≤ o) (h2 : o < 0x0B0) :
    s.windowWord o = s.mem.readWord o := by
  have hne := registerAt_storage_ne_none (o - 0x020) (by omega)
  rw [Nat.add_sub_cancel' h1] at hne
  unfold State.windowWord
  cases hr : registerAt o with
  | none => exact absurd hr hne
  | some r =>
    have hrange := registerAt_range hr
    cases r <;> simp at hrange
    case pOvr | qOvr | bin | bout | wx | wy | wz => rfl
    all_goals omega

/-- What a host reads depends on STATUS, CTRL, CFG, KLEN and the bytes below KEY only. -/
theorem windowWord_congr {s t : State} (hstatus : t.statusWord = s.statusWord) (hctrl : t.ctrlWord = s.ctrlWord)
    (hcfg : t.cfg = s.cfg) (hklen : t.klenWord = s.klenWord) (hm : ∀ p, p < 0x100 → t.mem.read p = s.mem.read p)
    (o : Nat) : t.windowWord o = s.windowWord o := by
  by_cases ho : o < 0x0B0
  · have hword : t.mem.readWord o = s.mem.readWord o := Memory.readWord_congr fun p _ _ => hm p (by omega)
    simp only [State.windowWord, hstatus, hctrl, hcfg, hklen, hword]
  · rw [windowWord_hidden t (by omega), windowWord_hidden s (by omega)]

/-- Settles O38: the fields of each register at their bits. -/
theorem windowShowsRegisters : Obligations.WindowShowsRegisters := by
  intro s
  have status : s.windowWord 0x008 = s.statusWord := rfl
  have ctrl : s.windowWord 0x00C = s.ctrlWord := rfl
  have cfg : s.windowWord 0x010 = s.cfg.word := rfl
  obtain ⟨ie, reserved, -⟩ := ctrlWord_fields s
  rw [status, ctrl, cfg]
  refine ⟨rfl, rfl, statusWord_fields s, fun c hc he => ?_, ⟨ie, reserved⟩, cfgWord_fields s.cfg, toNat_klenWord s,
    fun o h1 h2 => ?_, fun o h1 _ => windowWord_hidden s (by omega)⟩
  · obtain ⟨-, -, -, -, err, -⟩ := statusWord_fields s
    rw [err, he, errValue_code c hc]
  · rw [windowWord_storage s h1 h2, Memory.toNat_readWord]

/-! ### What a read does not show -/

/-- The host's turn takes the first operation off its list. -/
theorem step_of_host {s : State} {op : HostOp} {rest : List HostOp} (hd : s.completionDue = false)
    (hh : s.host = op :: rest) : step s = perform op (s.taken rest) := by
  simp [step, hd, hostTurn, hh]

theorem perform_read {o : Nat} (ho : o < 0x400) (s : State) :
    perform (.read (Config.base + o)) s = .next (hostRead o s) := by
  simp [perform, offsetOf_base_add ho]

/-- One turn of the polling loop is a read of STATUS (R112). -/
theorem perform_wait (s : State) : ∃ host, perform .wait s = .next { hostRead 0x008 s with host := host } := by
  cases hb : s.busy
  · exact ⟨(hostRead 0x008 s).host, by simp only [perform, hb, Bool.false_eq_true, ↓reduceIte]⟩
  · exact ⟨.wait :: (hostRead 0x008 s).host, by simp only [perform, hb, ↓reduceIte]⟩

/-- Two reads of states that show the same word return the same value and the same BUSERR. -/
theorem hostRead_congr {s t : State} {o : Nat} (hw : t.windowWord o = s.windowWord o) (hr : t.reads = s.reads)
    (hb : t.busErr = s.busErr) :
    (hostRead o t).reads = (hostRead o s).reads ∧ (hostRead o t).busErr = (hostRead o s).busErr := by
  unfold hostRead
  split <;> simp [hw, hr, hb]

/-- The host's read, or one turn of its polling loop, in two states that show the same words. -/
theorem step_read_congr {s t : State} {op : HostOp} {rest : List HostOp} (hd : s.completionDue = false)
    (hh : s.host = op :: rest) (hd' : t.completionDue = false) (hh' : t.host = op :: rest)
    (hop : op = .wait ∨ ∃ o, o < 0x400 ∧ op = .read (Config.base + o))
    (hw : ∀ o, (t.taken rest).windowWord o = (s.taken rest).windowWord o) (hr : t.reads = s.reads)
    (hb : t.busErr = s.busErr) :
    ∃ s' t', step s = .next s' ∧ step t = .next t' ∧ s'.reads = t'.reads ∧ s'.busErr = t'.busErr := by
  have read (o : Nat) := hostRead_congr (s := s.taken rest) (t := t.taken rest) (hw o) hr hb
  rw [step_of_host hd hh, step_of_host hd' hh']
  rcases hop with rfl | ⟨o, ho, rfl⟩
  · obtain ⟨host, h⟩ := perform_wait (s.taken rest)
    obtain ⟨host', h'⟩ := perform_wait (t.taken rest)
    obtain ⟨hreads, hbe⟩ := read 0x008
    exact ⟨_, _, h, h', hreads.symm, hbe.symm⟩
  · obtain ⟨hreads, hbe⟩ := read o
    exact ⟨_, _, perform_read ho _, perform_read ho _, hreads.symm, hbe.symm⟩

/-- Settles O47: the two states show the same word at every offset. -/
theorem keyAndTablesUnreadable : Obligations.KeyAndTablesUnreadable := by
  intro s m S' L' p op rest hd hh hop hm
  exact step_read_congr hd hh hd hh hop (windowWord_congr rfl rfl rfl rfl fun q _ => hm q (by omega)) rfl rfl

end Sys2Proof.Machine
end

section
/-! PROOF. What an accepted write does (R32, R33, R39 to R45), and the reset values (R54). -/

namespace Sys2Proof.Machine

/-! ### The bytes of a written word -/

/-- Little-endian lanes of a write (R74). -/
theorem Memory.read_writeWord (m : Memory) (o : Nat) (v : Word32) {i : Nat} (h : i < 4) :
    (m.writeWord o v).read (o + i) = v.extractLsb' (8 * i) 8 := by
  rw [Memory.writeWord, Memory.read_writeBytes, length_leBytes, if_pos (by omega), Nat.add_sub_cancel_left, getD_leBytes,
    if_pos h, BitVec.extractLsb', Nat.shiftRight_eq_div_pow, Nat.pow_mul]

theorem storesWord_of_mem {s t : State} {o : Nat} {v : Word32} (h : t.mem = s.mem.writeWord o v) :
    StoresWord s t o v := by
  refine ⟨fun i hi => ?_, fun p hp => ?_⟩ <;> rw [h]
  · exact Memory.read_writeWord _ _ _ hi
  · exact Memory.read_writeWord_outside _ _ hp

/-! ### The step of an accepted write -/

/-- A write to a register that is not read-only follows the register's rule (R73, R280). -/
theorem step_of_registerWrite {s : State} {o : Nat} {v : Word32} {rest : List HostOp} (hw : HostWrites s o v rest)
    (r : WindowReg) (hr : registerAt o = some r) (ha : o % 4 = 0) (hro : r ∉ [.id, .bout, .wz])
    (hb : s.busy = false ∨ r = .status ∨ r = .ctrl) : step s = .next ((s.taken rest).writeRegister r o v) := by
  have he : writeError o = false := by
    simp only [List.mem_cons, List.not_mem_nil, or_false, not_or] at hro
    simp [writeError, readError, ha, hr, hro]
  exact (step_of_hostWrites hw).trans (congrArg _ (hostWrite_register he hr hb))

theorem step_of_statusWrite {s : State} {v : Word32} {rest : List HostOp} (hw : HostWrites s 0x008 v rest) :
    step s = .next ((s.taken rest).writeStatus v) :=
  step_of_registerWrite hw .status rfl rfl (by decide) (.inr (.inl rfl))

theorem step_of_ctrlWrite {s : State} {v : Word32} {rest : List HostOp} (hw : HostWrites s 0x00C v rest) :
    step s = .next ((s.taken rest).writeCtrl v) :=
  step_of_registerWrite hw .ctrl rfl rfl (by decide) (.inr (.inr rfl))

theorem step_of_softReset {s : State} {v : Word32} {rest : List HostOp} (hw : HostWrites s 0x00C v rest)
    (hv : v.getLsbD 1 = true) : step s = .next (s.taken rest).hardReset := by
  rw [step_of_ctrlWrite hw, State.writeCtrl, if_pos hv]

theorem step_of_overrideWrite {s : State} {o : Nat} {v : Word32} {rest : List HostOp} (hw : HostWrites s o v rest)
    (hb : s.busy = false) (ha : o % 4 = 0) (h1 : 0x020 ≤ o) (h2 : o < 0x040) :
    step s = .next ((s.taken rest).writeOverride o v) := by
  by_cases ho : o < 0x030
  · exact step_of_registerWrite hw .pOvr
      (registerAt_of_row (row := ⟨0x020, 16, .pOvr⟩) (by decide) h1 ho) ha (by decide) (.inl hb)
  · exact step_of_registerWrite hw .qOvr
      (registerAt_of_row (row := ⟨0x030, 16, .qOvr⟩) (by decide) (Nat.le_of_not_lt ho) h2) ha (by decide) (.inl hb)

theorem step_of_keyWrite {s : State} {o : Nat} {v : Word32} {rest : List HostOp} (hw : HostWrites s o v rest)
    (hb : s.busy = false) (ha : o % 4 = 0) (h1 : 0x100 ≤ o) (h2 : o < 0x200) :
    step s = .next ((s.taken rest).writeKey o v) :=
  step_of_registerWrite hw .key
    (registerAt_of_row (row := ⟨0x100, 256, .key⟩) (by decide) h1 h2) ha (by decide) (.inl hb)

theorem step_of_dataWrite {s : State} {o : Nat} {v : Word32} {rest : List HostOp} (hw : HostWrites s o v rest)
    (hb : s.busy = false) (ha : o % 4 = 0) (h : (0x040 ≤ o ∧ o < 0x060) ∨ (0x080 ≤ o ∧ o < 0x0A0)) :
    step s = .next ((s.taken rest).writeData o v) := by
  rcases h with ⟨h1, h2⟩ | ⟨h1, h2⟩
  · exact step_of_registerWrite hw .bin
      (registerAt_of_row (row := ⟨0x040, 32, .bin⟩) (by decide) h1 h2) ha (by decide) (.inl hb)
  · by_cases ho : o < 0x090
    · exact step_of_registerWrite hw .wx
        (registerAt_of_row (row := ⟨0x080, 16, .wx⟩) (by decide) h1 ho) ha (by decide) (.inl hb)
    · exact step_of_registerWrite hw .wy
        (registerAt_of_row (row := ⟨0x090, 16, .wy⟩) (by decide) (Nat.le_of_not_lt ho) h2) ha (by decide) (.inl hb)

/-- Settles O45: the three registers' rules. -/
theorem configurationWrites : Obligations.ConfigurationWrites := by
  intro s o v rest hw hb
  refine ⟨fun ho => ?_, fun ho => ?_, fun ha h1 h2 => ?_⟩
  · subst ho
    exact ⟨_, step_of_registerWrite hw .cfg rfl rfl (by decide) (.inl hb), rfl, rfl, rfl, rfl, rfl, rfl,
      keepsHardware_refl s, rfl, rfl, rfl, rfl⟩
  · subst ho
    exact ⟨_, step_of_registerWrite hw .klen rfl rfl (by decide) (.inl hb), rfl, rfl,
      keepsHardware_refl s, rfl, rfl, rfl, rfl⟩
  · exact ⟨_, step_of_overrideWrite hw hb ha h1 h2, storesWord_of_mem rfl, rfl, rfl,
      keepsHardware_refl s, rfl, rfl, rfl, rfl⟩

/-- Settles O46: the rule of KEY, and that of BIN, WX and WY. -/
theorem bufferWrites : Obligations.BufferWrites := by
  intro s o v rest hw hb ha
  refine ⟨fun h1 h2 => ?_, fun h => ?_⟩
  · exact ⟨_, step_of_keyWrite hw hb ha h1 h2, storesWord_of_mem rfl, rfl, keepsHardware_refl s, rfl, rfl, rfl, rfl⟩
  · exact ⟨_, step_of_dataWrite hw hb ha h, storesWord_of_mem rfl, keepsHardware_refl s, rfl, rfl, rfl, rfl⟩

/-! ### Reset -/

theorem reset_resetValues : ResetValues State.reset :=
  ⟨rfl, rfl, rfl, rfl, rfl, rfl, fun _ _ => rfl, fun _ _ => rfl, fun _ _ => rfl, rfl, rfl, rfl, rfl, rfl⟩

theorem Memory.readBytes_nil (o n : Nat) : Memory.readBytes [] o n = zeroBytes n := by
  induction n generalizing o with
  | zero => rfl
  | succ n ih => rw [Memory.readBytes, ih, Memory.read_nil, zeroBytes, zeroBytes, List.replicate_succ]

theorem Memory.read128_nil (o : Nat) : Memory.read128 [] o = 0 := by
  rw [Memory.read128, Memory.readBytes_nil, leValue_zeroBytes, BitVec.ofNat_eq_ofNat]

theorem hardReset_resetValues (s : State) : ResetValues s.hardReset := by
  simp [ResetValues, State.statusWord, State.ctrlWord, Cfg.word, State.klenWord, State.pOvr, State.qOvr, State.wx,
    State.wy, State.wz, State.irq, Memory.read128_nil, errValue]

theorem step_of_resetNext {s : State} (h : ResetNext s) : ∃ rest, step s = .next (s.taken rest).hardReset := by
  obtain ⟨hd, rest, hh | ⟨v, hv, hh⟩⟩ := h
  · exact ⟨rest, step_of_host hd hh⟩
  · exact ⟨rest, step_of_softReset ⟨hd, hh, by decide⟩ hv⟩

/-- Settles O44: every reset is `State.hardReset`. -/
theorem resetGivesResetValues : Obligations.ResetGivesResetValues := by
  refine ⟨reset_resetValues, fun s h => ?_⟩
  obtain ⟨rest, hs⟩ := step_of_resetNext h
  exact ⟨_, hs, hardReset_resetValues _⟩

/-- Settles O43: the rules of STATUS and CTRL, which do not look at BUSY. -/
theorem statusAndCtrlWrites : Obligations.StatusAndCtrlWrites := by
  intro s v rest
  refine ⟨fun hw => ?_, fun hw hv => ?_, fun hw hv => ?_, ?_⟩
  · exact ⟨_, step_of_statusWrite hw, rfl, rfl, rfl, keepsHardware_refl s, rfl, rfl⟩
  · refine ⟨_, step_of_ctrlWrite hw, ?_⟩
    rw [State.writeCtrl, if_neg (by rw [hv]; decide)]
    exact ⟨rfl, rfl, rfl, keepsHardware_refl s, rfl, rfl⟩
  · exact ⟨_, step_of_softReset hw hv, hardReset_resetValues _, rfl, rfl, rfl, rfl⟩
  · obtain ⟨-, -, h⟩ := ctrlWord_fields s
    exact h

end Sys2Proof.Machine
end

section
/-! PROOF. The active configuration in numbers (R35, R38, R55, R182), KEYEXP (R190), and that the bytes of KEY behind
the configured length have no influence (R42, R185, D31). -/

namespace Sys2Proof.Machine

/-! ### The active configuration -/

theorem widthBits_ofCode {n : Nat} {w : Width} (h : Width.ofCode n = some w) : widthBits w = 8 * 2 ^ n := by
  unfold Width.ofCode at h
  split at h <;> cases h <;> rfl

theorem exists_ofCode {n : Nat} (h : n ≤ 4) : ∃ w, Width.ofCode n = some w := by
  interval_cases n <;> exact ⟨_, rfl⟩

theorem ofCode_eq_none {n : Nat} (h : 5 ≤ n) : Width.ofCode n = none := by
  obtain ⟨k, rfl⟩ := Nat.exists_eq_add_of_le' h
  rfl

theorem toNat_romP (w : Width) : (romP w).toNat = romPValue w := by cases w <;> rfl

theorem toNat_romQ (w : Width) : (romQ w).toNat = romQValue w := by cases w <;> rfl

/-- Truncation does not change a word that fits (R10). -/
theorem toNat_trunc_of_lt {w : Width} {x : Word128} (h : x.toNat < 2 ^ widthBits w) :
    (trunc (widthBits w) x).toNat = x.toNat := by
  rw [toNat_trunc, Nat.mod_eq_of_lt h]

theorem active_activeNumbers {s : State} {a : Active} (h : s.active? = some a) : s.ActiveNumbers a := by
  unfold State.active? at h
  split at h
  · cases h
  · next w hw =>
    cases h
    have bits : widthBits w = 8 * 2 ^ s.cfg.ws.toNat := widthBits_ofCode hw
    refine ⟨bits, ?_, rfl, rfl, rfl, fun hp => ?_, fun hp hlt => ?_, fun hp hlt => ?_⟩
    · rw [Active.u, widthBytes, bits, Nat.mul_div_cancel_left _ (by decide)]
    · simp [hp, toNat_romP, toNat_romQ]
    · simpa [hp] using toNat_trunc_of_lt hlt
    · simpa [hp] using toNat_trunc_of_lt hlt

theorem exists_active {s : State} (h : s.cfg.ws.toNat ≤ 4) : ∃ a, s.active? = some a := by
  obtain ⟨w, hw⟩ := exists_ofCode h
  exact ⟨_, by rw [State.active?, Cfg.width?, hw]⟩

theorem active_eq_none {s : State} (h : 5 ≤ s.cfg.ws.toNat) : s.active? = none := by
  rw [State.active?, Cfg.width?, ofCode_eq_none h]

/-! ### KEYEXP -/

theorem exec_keyexp_ok {s : State} {a : Active} (hc : s.configured = .ok a) (hl : s.klen.toNat = a.b) :
    exec .keyexp s = .next ((s.fillTable (s.expandedKey a)).complete .ok) := by
  simp [exec, execKeyexp, hc, State.expandChecked, hl]

theorem exec_keyexp_badLength {s : State} {a : Active} (hc : s.configured = .ok a) (hl : s.klen.toNat ≠ a.b) :
    exec .keyexp s = .next (s.complete .keyLengthError) := by
  simp [exec, execKeyexp, hc, State.expandChecked, hl]

theorem exec_keyexp_notConfigured {s : State} {e : ErrCode} (hc : s.configured = .error e) :
    exec .keyexp s = .next (s.complete e) := by
  simp [exec, execKeyexp, hc]

/-- Settles O22: the numbers of the active configuration, and the table that KEYEXP fills. -/
theorem keyexpResult : Obligations.KeyexpResult := by
  refine ⟨fun s => ⟨fun h => ?_, active_eq_none⟩, fun s a hv ha hl => ?_⟩
  · obtain ⟨a, ha⟩ := exists_active h
    exact ⟨a, ha, active_activeNumbers ha⟩
  · refine ⟨_, exec_keyexp_ok (configured_ok hv ha) hl, ⟨rfl, rfl, rfl⟩, rfl, hv, ?_,
      ⟨rfl, rfl, rfl, rfl, rfl, rfl, rfl, rfl, rfl⟩, rfl⟩
    rw [State.complete_S, State.fillTable_S, length_expandedKey]
    rfl

/-! ### The bytes of KEY behind the configured length -/

/-- The two states agree on the code, S, KEY_VALID and BOUT. -/
structure SameResult (t t' : State) : Prop where
  err : t.err = t'.err
  table : t.S = t'.S
  keyValid : t.keyValid = t'.keyValid
  bout : t.mem.readBytes 0x060 32 = t'.mem.readBytes 0x060 32

/-- `t` is `s` but for the bytes of KEY from index `b` on. -/
structure SameButKeyTail (b : Nat) (s t : State) : Prop where
  cfg : t.cfg = s.cfg
  cfgValid : t.cfgValid = s.cfgValid
  keyValid : t.keyValid = s.keyValid
  klen : t.klen = s.klen
  table : t.S = s.S
  bytes : ∀ o, ¬(0x100 + b ≤ o ∧ o < 0x200) → t.mem.read o = s.mem.read o

namespace SameButKeyTail

variable {s t : State} {a : Active} (h : SameButKeyTail a.b s t)
include h

theorem bout : s.mem.readBytes 0x060 32 = t.mem.readBytes 0x060 32 :=
  Memory.readBytes_congr fun o _ _ => (h.bytes o (by omega)).symm

theorem failed (e : ErrCode) : SameResult (s.complete e) (t.complete e) :=
  ⟨rfl, h.table.symm, h.keyValid.symm, h.bout⟩

theorem configured : t.configured = s.configured := by
  rw [State.configured, State.configured, h.cfgValid, active_congr h.cfg fun o _ _ => h.bytes o (by omega)]

theorem expandedKey : t.expandedKey a = s.expandedKey a := expandedKey_congr fun o _ _ => h.bytes o (by omega)

theorem roundKeys : t.roundKeys a = s.roundKeys a := by
  simp only [State.roundKeys, State.cachedKey, State.expandChecked, h.keyValid, h.klen, h.table, h.expandedKey]

theorem blockIn : t.blockIn a.w = s.blockIn a.w := by
  have hu := widthBytes_le a.w
  simp only [State.blockIn]
  rw [Memory.readBytes_congr fun o _ _ => h.bytes o (by omega),
    Memory.readBytes_congr fun o _ _ => h.bytes o (by omega)]

theorem filled {w : Nat} (T : List (Word w)) : (t.fillTable T).S = (s.fillTable T).S := by
  rw [State.fillTable_S, State.fillTable_S, h.table]

theorem exec_keyexp (ha : s.active? = some a) :
    ∃ s' t', exec .keyexp s = .next s' ∧ exec .keyexp t = .next t' ∧ SameResult s' t' := by
  have hcong := h.configured
  rcases configured_cases s with ⟨a', hc, -, ha'⟩ | hc <;> rw [hc] at hcong
  · obtain rfl : a' = a := Option.some.inj (ha'.symm.trans ha)
    by_cases hl : s.klen.toNat = a'.b
    · refine ⟨_, _, exec_keyexp_ok hc hl, exec_keyexp_ok hcong (h.klen ▸ hl), rfl, ?_, rfl, h.bout⟩
      rw [h.expandedKey]
      exact (h.filled _).symm
    · exact ⟨_, _, exec_keyexp_badLength hc hl, exec_keyexp_badLength hcong (h.klen ▸ hl), h.failed _⟩
  · exact ⟨_, _, exec_keyexp_notConfigured hc, exec_keyexp_notConfigured hcong, h.failed _⟩

end SameButKeyTail

/-- BOUT holds the block that was put there. -/
theorem readBytes_setBout (s : State) (w : Width) (x : Word (widthBits w) × Word (widthBits w)) :
    (s.setBout w x).mem.readBytes 0x060 32 = blockBytes w x := by
  have h := Memory.readBytes_writeBytes_same s.mem 0x060 (blockBytes w x)
  rwa [length_blockBytes] at h

namespace SameButKeyTail

variable {s t : State} {a : Active} (h : SameButKeyTail a.b s t)
include h

theorem finish_blockCommand (f : {w : Nat} → List (Word w) → Nat → Word w × Word w → Word w × Word w) (len : Nat)
    (ha : s.active? = some a) :
    ∃ s' t', finish s (blockCommand f len s) = .next s' ∧ finish t (blockCommand f len t) = .next t' ∧
      SameResult s' t' := by
  have failed {e : ErrCode} (hs : blockCommand f len s = .error e) (ht : blockCommand f len t = .error e) :
      ∃ s' t', finish s (blockCommand f len s) = .next s' ∧ finish t (blockCommand f len t) = .next t' ∧
        SameResult s' t' :=
    ⟨_, _, by rw [hs, finish_error], by rw [ht, finish_error], h.failed e⟩
  have hcong := h.configured
  rcases configured_cases s with ⟨a', hc, -, ha'⟩ | hc <;> rw [hc] at hcong
  · obtain rfl : a' = a := Option.some.inj (ha'.symm.trans ha)
    have hround := h.roundKeys
    cases hr : s.roundKeys a' with
    | error e => exact failed (blockCommand_noKeys f hc hr) (blockCommand_noKeys f hcong (hround.trans hr))
    | ok T =>
      by_cases hl : len = 2 * a'.u
      · have hbout (x) : (s.setBout a'.w x).mem.readBytes 0x060 32 = (t.setBout a'.w x).mem.readBytes 0x060 32 := by
          rw [readBytes_setBout, readBytes_setBout]
        cases hk : s.keyValid with
        | true =>
          refine ⟨_, _, by rw [blockCommand_cached f hc hr hl hk, finish_ok],
            by rw [blockCommand_cached f hcong (hround.trans hr) hl (h.keyValid.trans hk), finish_ok], ?_⟩
          rw [h.blockIn]
          exact ⟨rfl, h.table.symm, h.keyValid.symm, hbout _⟩
        | false =>
          refine ⟨_, _, by rw [blockCommand_filled f hc hr hl hk, finish_ok],
            by rw [blockCommand_filled f hcong (hround.trans hr) hl (h.keyValid.trans hk), finish_ok], ?_⟩
          rw [h.blockIn]
          exact ⟨rfl, (h.filled T).symm, rfl, hbout _⟩
      · exact failed (blockCommand_badLength f hc hr hl) (blockCommand_badLength f hcong (hround.trans hr) hl)
  · exact failed (blockCommand_notConfigured f hc) (blockCommand_notConfigured f hcong)

end SameButKeyTail

/-- Settles O36: the two states agree on everything that a command of the engine reads. -/
theorem keyBytesPastLengthIgnored : Obligations.KeyBytesPastLengthIgnored := by
  intro s m a len ha hm i hi
  have h : SameButKeyTail a.b s { s with mem := m } := ⟨rfl, rfl, rfl, rfl, rfl, hm⟩
  have result : ∃ t t', exec i s = .next t ∧ exec i { s with mem := m } = .next t' ∧ SameResult t t' := by
    simp only [List.mem_cons, List.not_mem_nil, or_false] at hi
    rcases hi with rfl | rfl | rfl
    · exact h.exec_keyexp ha
    · exact h.finish_blockCommand encryptWords len ha
    · exact h.finish_blockCommand decryptWords len ha
  obtain ⟨t, t', ht, ht', herr, hS, hk, hbout⟩ := result
  exact ⟨t, t', ht, ht', herr, hS, hk, hbout⟩

end Sys2Proof.Machine
end

section
/-! PROOF. What every step does to the byte storage: it stays canonical and inside the registers that store bytes
(R54, R75). -/

namespace Sys2Proof.Machine

/-! ### Writes inside the registers that store bytes -/

theorem isStorage_iff {o : Nat} : isStorage o = true ↔ (0x020 ≤ o ∧ o < 0x0B0) ∨ (0x100 ≤ o ∧ o < 0x200) := by
  simp [isStorage]

/-- Bytes written to storage offsets only keep the storage canonical. -/
theorem State.MemoryCanonical.of_writeBytes {s t : State} {o : Nat} {bs : List Byte} (hs : s.MemoryCanonical)
    (ht : t.mem = s.mem.writeBytes o bs)
    (ho : ∀ p, o ≤ p → p < o + bs.length → (0x020 ≤ p ∧ p < 0x0B0) ∨ (0x100 ≤ p ∧ p < 0x200)) :
    t.MemoryCanonical := by
  obtain ⟨hwf, hstorage⟩ := hs
  rw [State.MemoryCanonical, ht]
  refine ⟨Memory.wf_writeBytes hwf o bs, fun c hc => ?_⟩
  rcases Memory.mem_writeBytes hc with ⟨hlo, hhi⟩ | hc
  · exact isStorage_iff.mpr (ho c.1 hlo hhi)
  · exact hstorage c hc

/-- A word written at an aligned storage offset keeps the storage canonical. -/
theorem State.MemoryCanonical.of_writeWord {s t : State} {o : Nat} {v : Word32} (hs : s.MemoryCanonical)
    (ht : t.mem = s.mem.writeWord o v) (ha : o % 4 = 0)
    (ho : (0x020 ≤ o ∧ o < 0x0B0) ∨ (0x100 ≤ o ∧ o < 0x200)) : t.MemoryCanonical :=
  hs.of_writeBytes ht fun p _ hp => by rw [length_leBytes] at hp; omega

theorem State.MemoryCanonical.of_mem_eq {s t : State} (hs : s.MemoryCanonical) (ht : t.mem = s.mem) :
    t.MemoryCanonical := by
  rwa [State.MemoryCanonical, ht]

theorem hardReset_memoryCanonical (s : State) : s.hardReset.MemoryCanonical :=
  ⟨⟨.nil, nofun⟩, nofun⟩

/-! ### The step -/

/-- The bytes that commands write are those of BOUT, WZ and KEY. -/
theorem executed_memoryCanonical {s t : State} {i : Instr} (hs : s.MemoryCanonical) (h : Executed s t i) :
    t.MemoryCanonical := by
  cases h <;> subst t
  case word => exact hs.of_writeBytes (o := 0x0A0) rfl fun p _ hp => by rw [length_leBytes] at hp; omega
  case cached => exact hs.of_writeBytes (o := 0x060) rfl fun p _ hp => by rw [length_blockBytes] at hp; omega
  case expanded => exact hs.of_writeBytes (o := 0x060) rfl fun p _ hp => by rw [length_blockBytes] at hp; omega
  case keyclr =>
    have hmem : (s.clearKey.complete .ok).mem = s.mem.writeBytes 0x100 (zeroBytes 256) := by
      rw [State.complete_mem, State.clearKey_mem]
    exact hs.of_writeBytes hmem fun p _ hp => by rw [length_zeroBytes] at hp; omega
  all_goals exact hs

/-- The bytes that a host writes are four of P_OVR, Q_OVR, BIN, WX, WY or KEY. -/
theorem written_memoryCanonical {s t : State} {o : Nat} {v : Word32} (hs : s.MemoryCanonical) (h : Written o v s t) :
    t.MemoryCanonical := by
  cases h <;> subst t
  case srst => exact hardReset_memoryCanonical s
  case override ha hr hb => exact hs.of_writeWord rfl ha (by omega)
  case key ha hr hb => exact hs.of_writeWord rfl ha (by omega)
  case data ha hr hb => exact hs.of_writeWord rfl ha (by omega)
  all_goals exact hs

/-- Settles O49: by cases on the event; a completion and a write put bytes into storage offsets only. -/
theorem stepKeepsMemoryCanonical : Obligations.StepKeepsMemoryCanonical := by
  intro s t hs h
  cases step_event h with
  | executed i hd hf he => exact executed_memoryCanonical hs he
  | illegal hd ht => subst ht; exact hs
  | observed hd hk hovr hbe =>
    obtain ⟨-, -, -, -, -, -, -, -, hmem, -⟩ := hk
    exact hs.of_mem_eq hmem
  | reset hr rest ht => subst ht; exact hardReset_memoryCanonical _
  | written o v rest hw hn hwr => exact written_memoryCanonical (s := s.taken rest) hs hwr

end Sys2Proof.Machine
end

section
/-! PROOF. A block command answers the same with the cached table as with a fresh expansion of the key (R86, R215). -/

namespace Sys2Proof.Machine

/-! ### RoundKeys of a fresh cache -/

section
variable {s : State} {a : Active} (hf : s.CacheFresh) (hk : s.keyValid = true) (ha : s.active? = some a)
include hf hk ha

theorem roundKeys_of_cacheFresh : s.roundKeys a = .ok (s.expandedKey a) := by
  obtain ⟨hcached, -, -⟩ := cachedKey_of_cacheFresh hf hk ha
  rw [State.roundKeys, if_pos hk, hcached]

theorem roundKeys_uncached_of_cacheFresh :
    { s with keyValid := false }.roundKeys a = .ok (s.expandedKey a) := by
  obtain ⟨-, hl, -⟩ := cachedKey_of_cacheFresh hf hk ha
  exact if_pos hl

end

/-! ### The block commands -/

/-- Both states take the same branch with the same round keys, and filling the table writes no byte. -/
theorem finish_blockCommand_uncached (f : {w : Nat} → List (Word w) → Nat → Word w × Word w → Word w × Word w)
    {s : State} (len : Nat) (hf : s.CacheFresh) (hk : s.keyValid = true) :
    ∃ t t', finish s (blockCommand f len s) = .next t ∧
      finish { s with keyValid := false } (blockCommand f len { s with keyValid := false }) = .next t' ∧
      t.err = t'.err ∧ t.mem = t'.mem := by
  rcases configured_cases s with ⟨a, hc, -, ha⟩ | hc
  · have hr := roundKeys_of_cacheFresh hf hk ha
    have hc' : { s with keyValid := false }.configured = .ok a := hc
    have hr' := roundKeys_uncached_of_cacheFresh hf hk ha
    by_cases hl : len = 2 * a.u
    · exact ⟨_, _, congrArg (finish _) (blockCommand_cached f hc hr hl hk),
        congrArg (finish _) (blockCommand_filled f hc' hr' hl rfl), rfl, rfl⟩
    · exact ⟨_, _, congrArg (finish _) (blockCommand_badLength f hc hr hl),
        congrArg (finish _) (blockCommand_badLength f hc' hr' hl), rfl, rfl⟩
  · have hc' : { s with keyValid := false }.configured = .error .notConfigured := hc
    exact ⟨_, _, congrArg (finish _) (blockCommand_notConfigured f hc),
      congrArg (finish _) (blockCommand_notConfigured f hc'), rfl, rfl⟩

/-- Settles O32: both block commands are `blockCommand` of a transform. -/
theorem cacheIsTransparent : Obligations.CacheIsTransparent := by
  intro s len hf hk i hi
  simp only [List.mem_cons, List.not_mem_nil, or_false] at hi
  rcases hi with rfl | rfl
  · exact finish_blockCommand_uncached encryptWords len hf hk
  · exact finish_blockCommand_uncached decryptWords len hf hk

end Sys2Proof.Machine
end

section
/-! PROOF. The host's accesses to the window: byte lanes (R74), reads (R72, R80), access errors (R79, R245), and the one
access at which the model stops (R79, U10; log entry 10). -/

namespace Sys2Proof.Machine

/-! ### Byte lanes (R74) -/

/-- A run of bytes inside a longer one, cut out of its little-endian value. -/
theorem Memory.leValue_readBytes_div_mod (m : Memory) (o i n k : Nat) :
    leValue (m.readBytes o (i + n + k)) / 256 ^ i % 256 ^ n = leValue (m.readBytes (o + i) n) := by
  have low := leValue_lt (m.readBytes o i)
  have run := leValue_lt (m.readBytes (o + i) n)
  rw [Memory.length_readBytes] at low run
  rw [Memory.readBytes_append, Memory.readBytes_append, List.append_assoc, leValue_append, leValue_append,
    Memory.length_readBytes, Memory.length_readBytes, Nat.add_mul_div_left _ _ (by positivity), Nat.div_eq_of_lt low,
    Nat.zero_add, Nat.add_mul_mod_self_left, Nat.mod_eq_of_lt run]

/-- Bytes `i` to `i + n - 1` of a register are its bits from `8i` on. -/
theorem Memory.extractLsb_leValue (m : Memory) (o : Nat) {i n len : Nat} (h : i + n ≤ len) :
    (BitVec.ofNat (8 * len) (leValue (m.readBytes o len))).extractLsb' (8 * i) (8 * n)
      = BitVec.ofNat (8 * n) (leValue (m.readBytes (o + i) n)) := by
  obtain ⟨k, rfl⟩ := Nat.exists_eq_add_of_le h
  have fits := leValue_lt (m.readBytes o (i + n + k))
  rw [Memory.length_readBytes] at fits
  apply BitVec.eq_of_toNat_eq
  rw [BitVec.extractLsb'_toNat, BitVec.toNat_ofNat, BitVec.toNat_ofNat, Nat.shiftRight_eq_div_pow, Nat.pow_mul,
    Nat.pow_mul, Nat.pow_mul, Nat.mod_eq_of_lt fits, ← m.leValue_readBytes_div_mod o i n k, Nat.mod_mod]

theorem Memory.extractLsb_readWord (m : Memory) (o : Nat) {i : Nat} (h : i < 4) :
    (m.readWord o).extractLsb' (8 * i) 8 = m.read (o + i) := by
  refine (m.extractLsb_leValue o (n := 1) (len := 4) (by omega)).trans ?_
  simp [Memory.readBytes, leValue]

/-- Word `k` of a 128-bit register. -/
theorem Memory.extractLsb_read128 (m : Memory) (o : Nat) {k : Nat} (h : k < 4) :
    (m.read128 o).extractLsb' (32 * k) 32 = m.readWord (o + 4 * k) := by
  have lane := m.extractLsb_leValue o (i := 4 * k) (n := 4) (len := 16) (by omega)
  rwa [← Nat.mul_assoc] at lane

/-- The window shows word `k` of the 128-bit register at offset `o`. -/
theorem windowWord_read128 (s : State) {o k : Nat} (hlo : 0x020 ≤ o) (hhi : o + 16 ≤ 0x0B0) (hk : k < 4) :
    s.windowWord (o + 4 * k) = (s.mem.read128 o).extractLsb' (32 * k) 32 := by
  rw [windowWord_storage s (by omega) (by omega), Memory.extractLsb_read128 _ _ hk]

/-- Settles O39: the lanes of a read are a cut out of the little-endian value; those of a write, the bytes written. -/
theorem littleEndianLanes : Obligations.LittleEndianLanes := by
  refine ⟨fun m o i v hi => ⟨m.extractLsb_readWord o hi, m.read_writeWord o v hi⟩, fun s k hk => ?_⟩
  exact ⟨windowWord_read128 s (by decide) (by decide) hk, windowWord_read128 s (by decide) (by decide) hk,
    windowWord_read128 s (by decide) (by decide) hk, windowWord_read128 s (by decide) (by decide) hk,
    windowWord_read128 s (by decide) (by decide) hk⟩

/-! ### Reads and access errors -/

/-- Settles O37: a read is an access error, or it returns what the window shows. -/
theorem hostReadReturnsRegister : Obligations.HostReadReturnsRegister := by
  intro s o rest h
  have ⟨_, _, hlt⟩ := h
  refine ⟨_, step_of_hostReads h, ?_⟩
  obtain ⟨keeps, hovr, -⟩ := hostRead_keeps o (s.taken rest)
  refine ⟨keeps, hovr, hostRead_host _ _, ?_⟩
  rw [← readError_iff o hlt]
  rcases hostRead_cases o (s.taken rest) with ⟨he, hread⟩ | ⟨he, hread⟩ <;> rw [hread, he]
  · exact ⟨fun _ => ⟨rfl, rfl⟩, fun hne => absurd rfl hne⟩
  · exact ⟨nofun, fun _ => ⟨rfl, rfl⟩⟩

theorem hostWrite_of_writeError {o : Nat} (v : Word32) (s : State) (h : writeError o = true) :
    hostWrite o v s = s.accessError := if_pos h

/-- Settles O40: the access error comes before the busy check. -/
theorem writeAccessErrors : Obligations.WriteAccessErrors := by
  intro s o v rest hw herr
  have ⟨_, _, hlt⟩ := hw
  refine ⟨_, step_of_hostWrites hw, ?_⟩
  rw [hostWrite_of_writeError v _ ((writeError_iff o hlt).mpr herr)]
  exact ⟨rfl, rfl, keepsHardware_refl s, rfl, rfl⟩

/-! ### Where a step stops -/

/-- Every command ends in `finish`. -/
theorem exec_eq_finish (i : Instr) (s : State) : ∃ r, exec i s = finish s r := by
  cases i with
  | nop => exact ⟨.ok s, rfl⟩
  | keyclr => exact ⟨.ok s.clearKey, rfl⟩
  | wbuild w => exact ⟨.ok (s.setWz (trunc (widthBits w) s.wx)), rfl⟩
  | configure | keyexp => exact ⟨_, rfl⟩
  | encrypt | decrypt => exact ⟨_, rfl⟩
  | wadd | wsub | wrotl | wrotr | wand | wor | wxor | weq => exact ⟨_, rfl⟩

theorem exec_next (i : Instr) (s : State) : ∃ t, exec i s = .next t := by
  obtain ⟨r, hr⟩ := exec_eq_finish i s
  exact hr ▸ finish_next s r

theorem offsetOf_of_inWindow {addr : Nat} (h : inWindow addr) : offsetOf addr = some (addr - Config.base) := if_pos h

theorem offsetOf_of_not_inWindow {addr : Nat} (h : ¬inWindow addr) : offsetOf addr = none := if_neg h

theorem perform_inWindow {op : HostOp} (h : op.InWindow) (s : State) : ∃ t, perform op s = .next t := by
  cases op with
  | read addr => exact ⟨_, by rw [perform, offsetOf_of_inWindow h]⟩
  | write addr v => exact ⟨_, by rw [perform, offsetOf_of_inWindow h]⟩
  | wait => exact ⟨_, rfl⟩
  | reset => exact ⟨_, rfl⟩

theorem perform_outside {op : HostOp} (h : ¬op.InWindow) (s : State) : perform op s = .refused .outsideWindow := by
  cases op with
  | read addr => rw [perform, offsetOf_of_not_inWindow h]
  | write addr v => rw [perform, offsetOf_of_not_inWindow h]
  | wait => exact absurd trivial h
  | reset => exact absurd trivial h

/-- A due completion goes on, whatever word is pending (R132, R134). -/
theorem step_of_completionDue {s : State} (hd : s.completionDue = true) : ∃ t, step s = .next t := by
  rw [step, if_pos hd]
  cases s.fetch with
  | ok i => exact exec_next i s
  | error e => exact ⟨_, rfl⟩

theorem step_of_idle {s : State} (hd : s.completionDue = false) (hh : s.host = []) : step s = .next s := by
  simp [step, hd, hostTurn, hh]

/-- Settles O59: a completion and an idle turn go on, and a host operation is refused exactly outside the window. -/
theorem stepStopsOnlyOutsideWindow : Obligations.StepStopsOnlyOutsideWindow := by
  intro s
  cases hd : s.completionDue with
  | true => exact .inl (step_of_completionDue hd)
  | false =>
    cases hh : s.host with
    | nil => exact .inl ⟨s, step_of_idle hd hh⟩
    | cons op rest =>
      rw [step_of_host hd hh]
      by_cases hw : op.InWindow
      · exact .inl (perform_inWindow hw _)
      · exact .inr ⟨perform_outside hw _, rfl, op, rest, rfl, hw⟩

end Sys2Proof.Machine
end

section
/-! PROOF. Decoding and encoding (R100 to R111). A command is the row of R107 that its four fields name: `Instr.fields` is that
row, `decode` reads the fields of a word whose reserved fields are 0, and `encode` writes them back. The one idea is
`decode_eq_ok_iff`: a word decodes to a command exactly when the command is well formed and encodes to the word. -/

namespace Sys2Proof

/-! ### The fields of a word and of a command (R101, R107) -/

/-- OP, WS, ISRC and IMM or LEN of CMD32 (R101). -/
structure Fields where
  op : Nat
  ws : Nat
  isrc : Nat
  imm : Nat

/-- The fields that a word carries (R101). -/
def fieldsOf (v : Word32) : Fields := ⟨slice v 7 0, slice v 10 8, slice v 11 11, slice v 23 16⟩

/-- The row of R107: the fields that a command has. -/
def Instr.fields (i : Instr) : Fields :=
  match i with
  | .nop | .configure | .keyexp | .keyclr => ⟨i.opcode, 0, 0, 0⟩
  | .encrypt len | .decrypt len => ⟨i.opcode, 0, 0, len⟩
  | .wbuild w => ⟨i.opcode, w.code, 0, 0⟩
  | .wadd w v2 | .wsub w v2 | .wrotl w v2 | .wrotr w v2 | .wand w v2 | .wor w v2 | .wxor w v2 | .weq w v2 =>
    ⟨i.opcode, w.code, v2.isrc, v2.immField⟩

@[simp] theorem Instr.fields_op (i : Instr) : i.fields.op = i.opcode := by cases i <;> rfl

theorem encode_eq_encodeFields (i : Instr) :
    encode i = encodeFields i.fields.op i.fields.ws i.fields.isrc i.fields.imm := by cases i <;> rfl

theorem Instr.fields_op_lt (i : Instr) : i.fields.op < 256 := i.fields_op ▸ i.opcode_lt

theorem Instr.fields_ws_lt (i : Instr) : i.fields.ws < 8 := by
  cases i with
  | nop | configure | keyexp | keyclr | encrypt | decrypt => exact Nat.zero_lt_succ 7
  | wbuild w => exact w.code_lt
  | wadd w | wsub w | wrotl w | wrotr w | wand w | wor w | wxor w | weq w => exact w.code_lt

theorem Instr.fields_isrc_lt (i : Instr) : i.fields.isrc < 2 := by
  cases i with
  | nop | configure | keyexp | keyclr | encrypt | decrypt | wbuild => exact Nat.zero_lt_two
  | wadd _ v2 | wsub _ v2 | wrotl _ v2 | wrotr _ v2 | wand _ v2 | wor _ v2 | wxor _ v2 | weq _ v2 => exact v2.isrc_lt

theorem Operand2.wellFormed_iff (v2 : Operand2) : v2.WellFormed = true ↔ v2.immField < 256 := by
  cases v2 <;> simp [Operand2.WellFormed, Operand2.immField]

/-- LEN and IMM are the only fields that a command can have too large. -/
theorem Instr.wellFormed_iff (i : Instr) : i.WellFormed = true ↔ i.fields.imm < 256 := by
  cases i with
  | nop | configure | keyexp | keyclr | wbuild => simp [Instr.WellFormed, Instr.fields]
  | encrypt | decrypt => exact decide_eq_true_iff
  | wadd _ v2 | wsub _ v2 | wrotl _ v2 | wrotr _ v2 | wand _ v2 | wor _ v2 | wxor _ v2 | weq _ v2 =>
    exact v2.wellFormed_iff

theorem slice_isrc_lt (v : Word32) : slice v 11 11 < 2 := Nat.mod_lt _ (by decide)

theorem slice_imm_lt (v : Word32) : slice v 23 16 < 256 := Nat.mod_lt _ (by decide)

/-- A word with zero reserved fields is made of its four other fields. -/
theorem encodeFields_slice {v : Word32} (h2 : slice v 31 24 = 0) (h1 : slice v 15 12 = 0) :
    encodeFields (slice v 7 0) (slice v 10 8) (slice v 11 11) (slice v 23 16) = v := by
  apply BitVec.eq_of_toNat_eq
  have := v.isLt
  simp only [slice, encodeFields, BitVec.toNat_ofNat, Nat.reducePow, Nat.reduceSub, Nat.reduceAdd] at *
  omega

/-- A well-formed command's word carries the command's fields, and zeros in the reserved fields. -/
theorem fieldsOf_encode {i : Instr} (h : i.WellFormed = true) :
    slice (encode i) 31 24 = 0 ∧ slice (encode i) 15 12 = 0 ∧ i.fields = fieldsOf (encode i) := by
  rw [encode_eq_encodeFields, fieldsOf]
  obtain ⟨hop, hws, hisrc, himm, hrsv2, hrsv1⟩ :=
    slice_encodeFields i.fields_op_lt i.fields_ws_lt i.fields_isrc_lt (i.wellFormed_iff.mp h)
  rw [hop, hws, hisrc, himm]
  exact ⟨hrsv2, hrsv1, rfl⟩

/-! ### What the decoder answers, form by form -/

theorem Width.ofCode_eq_some_iff {n : Nat} {w : Width} : Width.ofCode n = some w ↔ w.code = n := by
  constructor
  · intro h
    unfold Width.ofCode at h
    split at h <;> cases h <;> rfl
  · rintro rfl
    exact w.ofCode_code

theorem Width.exists_code_iff (n : Nat) : (∃ w : Width, w.code = n) ↔ n ≤ 4 := by
  constructor
  · rintro ⟨w, rfl⟩
    cases w <;> decide
  · intro h
    match n, h with
    | 0, _ => exact ⟨.w8, rfl⟩
    | 1, _ => exact ⟨.w16, rfl⟩
    | 2, _ => exact ⟨.w32, rfl⟩
    | 3, _ => exact ⟨.w64, rfl⟩
    | 4, _ => exact ⟨.w128, rfl⟩

theorem Operand2.exists_iff {p : Operand2 → Prop} : (∃ v2, p v2) ↔ p .wy ∨ ∃ v, p (.imm v) :=
  ⟨fun ⟨v2, h⟩ => match v2, h with
    | .wy, h => .inl h
    | .imm v, h => .inr ⟨v, h⟩,
   fun h => h.elim (⟨_, ·⟩) fun ⟨_, h⟩ => ⟨_, h⟩⟩

/-- IMM must be 0 in the register form (R105). -/
theorem Operand2.exists_fields_iff {isrc : Nat} (imm : Nat) (hs : isrc < 2) :
    (∃ v2 : Operand2, v2.isrc = isrc ∧ v2.immField = imm) ↔ isrc = 1 ∨ imm = 0 := by
  simp only [Operand2.exists_iff, Operand2.isrc, Operand2.immField, exists_eq_right]
  omega

section Forms

variable {op ws isrc imm : Nat} {i : Instr}

theorem decodePlain_eq_ok_iff {j : Instr} :
    decodePlain ws isrc imm j = .ok i ↔ j = i ∧ ws = 0 ∧ isrc = 0 ∧ imm = 0 := by
  rw [decodePlain]
  split <;> simp [*]

theorem decodeBlock_eq_ok_iff {f : Nat → Instr} :
    decodeBlock ws isrc imm f = .ok i ↔ f imm = i ∧ ws = 0 ∧ isrc = 0 := by
  rw [decodeBlock]
  split <;> simp [*]

theorem decodeUnary_eq_ok_iff {f : Width → Instr} :
    decodeUnary ws isrc imm f = .ok i ↔ ∃ w, f w = i ∧ w.code = ws ∧ isrc = 0 ∧ imm = 0 := by
  simp only [← Width.ofCode_eq_some_iff, decodeUnary]
  cases Width.ofCode ws with
  | none => simp
  | some w => simp only [Option.some.injEq]; split <;> simp [*]

theorem decodeBinary_eq_ok_iff {f : Width → Operand2 → Instr} (hs : isrc < 2) :
    decodeBinary ws isrc imm f = .ok i ↔
      ∃ w v2, f w v2 = i ∧ w.code = ws ∧ v2.isrc = isrc ∧ v2.immField = imm := by
  simp only [← Width.ofCode_eq_some_iff, decodeBinary]
  cases Width.ofCode ws with
  | none => simp
  | some w =>
    obtain rfl | rfl : isrc = 0 ∨ isrc = 1 := by omega
    · by_cases h : imm = 0 <;> simp [Operand2.exists_iff, Operand2.isrc, Operand2.immField, h, eq_comm]
    · simp [Operand2.exists_iff, Operand2.isrc, Operand2.immField]

/-- `decodeOp` answers a command exactly when the fields are its row of R107. -/
theorem decodeOp_eq_ok_iff (hs : isrc < 2) :
    decodeOp op ws isrc imm = .ok i ↔ i.fields = ⟨op, ws, isrc, imm⟩ := by
  constructor
  · intro h
    unfold decodeOp at h
    split at h
    case h_1 | h_2 | h_3 | h_6 =>
      obtain ⟨rfl, rfl, rfl, rfl⟩ := decodePlain_eq_ok_iff.mp h
      rfl
    case h_4 | h_5 =>
      obtain ⟨rfl, rfl, rfl⟩ := decodeBlock_eq_ok_iff.mp h
      rfl
    case h_7 =>
      obtain ⟨w, rfl, rfl, rfl, rfl⟩ := decodeUnary_eq_ok_iff.mp h
      rfl
    case h_16 => cases h
    all_goals
      obtain ⟨w, v2, rfl, rfl, rfl, rfl⟩ := (decodeBinary_eq_ok_iff hs).mp h
      rfl
  · intro h
    cases i with
    | nop | configure | keyexp | keyclr =>
      cases h
      exact decodePlain_eq_ok_iff.mpr ⟨rfl, rfl, rfl, rfl⟩
    | encrypt | decrypt =>
      cases h
      exact decodeBlock_eq_ok_iff.mpr ⟨rfl, rfl, rfl⟩
    | wbuild w =>
      cases h
      exact decodeUnary_eq_ok_iff.mpr ⟨w, rfl, rfl, rfl, rfl⟩
    | wadd w v2 | wsub w v2 | wrotl w v2 | wrotr w v2 | wand w v2 | wor w v2 | wxor w v2 | weq w v2 =>
      cases h
      exact (decodeBinary_eq_ok_iff hs).mpr ⟨w, v2, rfl, rfl, rfl, rfl⟩

/-- The case of R108 on OP: what each row asks of the other fields. -/
def RowLegal (op ws isrc imm : Nat) : Prop :=
  (op ≤ 0x02 ∨ op = 0x05) ∧ ws = 0 ∧ isrc = 0 ∧ imm = 0 ∨
  (op = 0x03 ∨ op = 0x04) ∧ ws = 0 ∧ isrc = 0 ∨
  op = 0x10 ∧ ws ≤ 4 ∧ isrc = 0 ∧ imm = 0 ∨
  (0x11 ≤ op ∧ op ≤ 0x18) ∧ ws ≤ 4 ∧ (isrc = 1 ∨ imm = 0)

theorem exists_decodeOp_iff (hs : isrc < 2) :
    (∃ i, decodeOp op ws isrc imm = .ok i) ↔ RowLegal op ws isrc imm := by
  have widths := Width.exists_code_iff ws
  have operands := Operand2.exists_fields_iff imm hs
  unfold decodeOp RowLegal
  split
  case h_1 | h_2 | h_3 | h_6 => simp [decodePlain_eq_ok_iff]
  case h_4 | h_5 => simp [decodeBlock_eq_ok_iff]
  case h_7 => simp [decodeUnary_eq_ok_iff, ← widths]
  case h_16 =>
    simp only [imp_false, reduceCtorEq, exists_false, false_iff] at *
    omega
  all_goals simp [decodeBinary_eq_ok_iff hs, ← widths, ← operands]

end Forms

/-! ### Decoding and legality (R108, R110) -/

theorem decode_eq_ok_iff_fields {v : Word32} {i : Instr} :
    decode v = .ok i ↔ slice v 31 24 = 0 ∧ slice v 15 12 = 0 ∧ i.fields = fieldsOf v := by
  rw [decode, ← and_assoc]
  split
  · next h => rw [decodeOp_eq_ok_iff (slice_isrc_lt v), fieldsOf, and_iff_right h]
  · next h => simp [h]

/-- Decoding is the inverse of encoding, on well-formed commands and on words that decode. -/
theorem decode_eq_ok_iff {v : Word32} {i : Instr} : decode v = .ok i ↔ i.WellFormed = true ∧ encode i = v := by
  rw [decode_eq_ok_iff_fields]
  constructor
  · rintro ⟨hrsv2, hrsv1, hf⟩
    constructor
    · rw [i.wellFormed_iff, hf]
      exact slice_imm_lt v
    · rw [encode_eq_encodeFields, hf]
      exact encodeFields_slice hrsv2 hrsv1
  · rintro ⟨hwf, rfl⟩
    exact fieldsOf_encode hwf

theorem legal_iff (v : Word32) :
    Legal v = true ↔ (slice v 31 24 = 0 ∧ slice v 15 12 = 0) ∧
      RowLegal (slice v 7 0) (slice v 10 8) (slice v 11 11) (slice v 23 16) := by
  simp only [Legal, RowLegal, Bool.and_eq_true, Bool.or_eq_true, beq_iff_eq, decide_eq_true_iff]
  refine and_congr_right fun _ => ?_
  split_ifs
  case neg => simp only [false_iff]; omega
  all_goals simp only [Bool.and_eq_true, Bool.or_eq_true, beq_iff_eq, decide_eq_true_iff]; omega

/-- R110: the decoder answers a command on the words of R108 and on no others. -/
theorem exists_decode_iff (v : Word32) : (∃ i, decode v = .ok i) ↔ Legal v = true := by
  rw [legal_iff, decode]
  split
  · next h => rw [exists_decodeOp_iff (slice_isrc_lt v), and_iff_right h]
  · next h => simp [h]

theorem decode_refused_iff (v : Word32) : (∃ e, decode v = .error e) ↔ ¬ Legal v = true := by
  rw [← exists_decode_iff]
  cases decode v <;> simp

/-- R109: no word but 0 is a NOP. -/
theorem decode_eq_nop_iff (v : Word32) : decode v = .ok .nop ↔ v = 0 := by
  rw [decode_eq_ok_iff]
  exact ⟨fun ⟨_, henc⟩ => henc.symm, fun h => ⟨rfl, h.symm⟩⟩

/-! ### The obligations -/

/-- Settles O1: one direction of `decode_eq_ok_iff`. -/
theorem decodeEncodeRoundTrip : Obligations.DecodeEncodeRoundTrip :=
  fun _ h => decode_eq_ok_iff.mpr ⟨h, rfl⟩

/-- Settles O2: a legal word decodes, to a command with the word's fields; injectivity is the round trip read backwards. -/
theorem decodeFollowsLegality : Obligations.DecodeFollowsLegality := by
  refine ⟨fun v => ⟨fun hl => ?_, fun hl => ?_⟩, fun i j hi hj he => ?_⟩
  · obtain ⟨i, hd⟩ := (exists_decode_iff v).mpr hl
    obtain ⟨-, -, hf⟩ := decode_eq_ok_iff_fields.mp hd
    obtain ⟨hwf, henc⟩ := decode_eq_ok_iff.mp hd
    exact ⟨i, hd, hwf, by rw [← i.fields_op, hf, fieldsOf], henc⟩
  · exact (decode_refused_iff v).mpr (Bool.eq_false_iff.mp hl)
  · exact Except.ok.inj (by rw [← decodeEncodeRoundTrip i hi, he, decodeEncodeRoundTrip j hj])

/-- Settles O3: no kind of encoding that R109 names is `Legal`, and a word that decodes to NOP is the encoding of NOP. -/
theorem reservedEncodingsRefused : Obligations.ReservedEncodingsRefused := by
  intro v
  simp only [decode_refused_iff, legal_iff, RowLegal]
  refine ⟨?_, ?_, ?_, ?_, ?_, ?_, ?_, decode_eq_nop_iff v⟩ <;> omega

/-- Settles O4: each word is the encoding of its command, and the last one is not legal. -/
theorem specWordsDecode : Obligations.SpecWordsDecode := by
  simp only [Obligations.SpecWordsDecode, decode_eq_ok_iff, decode_refused_iff]
  decide

end Sys2Proof
end

section
/-! PROOF. The execution of a command (R130 to R137, R140): what a completion writes and what it leaves, read off
`exec_cases`, and what a host access leaves of a pending command. -/

namespace Sys2Proof.Machine

/-! ### A completion (R132, R134, R136) -/

/-- A completion alone writes the code and nothing else (R136); with code 0 that is NOP's whole effect (R140). -/
theorem complete_failsWith (s : State) (e : ErrCode) : FailsWith s (s.complete e) e :=
  ⟨⟨rfl, rfl, rfl⟩, ⟨rfl, rfl, rfl, rfl, rfl, rfl, rfl, rfl, rfl⟩, ⟨rfl, rfl, rfl, rfl, rfl⟩, rfl⟩

/-- A command that ends with an error code is one that failed. -/
theorem executed_of_err {s t : State} {i : Instr} (h : Executed s t i) (herr : t.err ≠ .ok) :
    t = s.complete t.err := by
  cases h <;> subst t
  case failed => rfl
  all_goals exact absurd rfl herr

theorem step_of_decode {s : State} {i : Instr} (hd : s.completionDue = true) (hf : decode s.pend = .ok i) :
    step s = exec i s := by
  rw [step, if_pos hd, State.fetch, hf]

theorem step_of_illegal {s : State} {e : DecodeError} (hd : s.completionDue = true) (hf : decode s.pend = .error e) :
    step s = .next (s.complete .illegalCommand) := by
  rw [step, if_pos hd, State.fetch, hf]

/-- Settles O5: the branches of `step`; a word that is not legal does not decode. -/
theorem stepRunsPendingCommand : Obligations.StepRunsPendingCommand := by
  refine fun s hd => ⟨fun i hf => step_of_decode hd hf, fun hl => ?_⟩
  obtain ⟨e, hf⟩ := (decode_refused_iff s.pend).mpr (Bool.eq_false_iff.mp hl)
  exact ⟨_, step_of_illegal hd hf, complete_failsWith s _⟩

/-- Settles O6: what every completion does to STATUS, to the inputs and to the bytes that commands read. -/
theorem completionKeepsInputs : Obligations.CompletionKeepsInputs := by
  intro i s
  obtain ⟨t, h⟩ := exec_next i s
  have he := exec_cases h
  obtain ⟨hb, hdone⟩ := executed_status he
  exact ⟨t, t.err, h, ⟨rfl, hdone, hb⟩, executed_keeps he, executed_keepsOperandBytes he,
    fun hi _ ho _ => executed_keepsKey he hi ho⟩

/-- Settles O7: a command with an error code has only completed with it; the clause on CONFIGURE is R56's. -/
theorem failureWritesOnlyTheCode : Obligations.FailureWritesOnlyTheCode := by
  intro i s t h herr
  constructor
  · rw [executed_of_err (exec_cases h) herr]
    exact complete_failsWith s t.err
  · rintro rfl hs
    obtain ⟨-, -, configure_fails⟩ := stepKeepsConfigConsistent
    exact configure_fails s t hs h herr

/-- Settles O20: NOP is a completion alone, with code 0. -/
theorem nopResult : Obligations.NopResult := fun s =>
  ⟨_, finish_ok s s, complete_failsWith s .ok⟩

/-! ### The frames of the families (R137) -/

theorem isBlock_eq_false_of_isWordUnit {i : Instr} : isWordUnit i = true → isBlock i = false := by
  cases i <;> simp [isWordUnit, isBlock]

/-- The bytes that a command may write: WZ, BOUT or KEY, by its family. -/
def WritesByte (i : Instr) (o : Nat) : Prop :=
  (isWordUnit i = true ∧ 0x0A0 ≤ o ∧ o < 0x0A0 + 16) ∨ (isBlock i = true ∧ 0x060 ≤ o ∧ o < 0x060 + 32) ∨
    (i = .keyclr ∧ 0x100 ≤ o ∧ o < 0x100 + 256)

theorem writesByte_of_isWordUnit {i : Instr} {o : Nat} (hi : isWordUnit i = true) :
    WritesByte i o ↔ 0x0A0 ≤ o ∧ o < 0x0A0 + 16 := by
  simp [WritesByte, hi, isBlock_eq_false_of_isWordUnit hi, isWordUnit_ne_keyclr hi]

theorem writesByte_of_isBlock {i : Instr} {o : Nat} (hi : isBlock i = true) :
    WritesByte i o ↔ 0x060 ≤ o ∧ o < 0x060 + 32 := by
  have hw : ¬isWordUnit i = true := fun hw => by simp [isBlock_eq_false_of_isWordUnit hw] at hi
  simp [WritesByte, hi, hw, isBlock_ne_keyclr hi]

theorem not_writesByte {i : Instr} (hw : isWordUnit i = false) (hb : isBlock i = false) (hk : i ≠ .keyclr) (o : Nat) :
    ¬WritesByte i o := by
  simp [WritesByte, hw, hb, hk]

theorem writesByte_keyclr {o : Nat} : WritesByte .keyclr o ↔ 0x100 ≤ o ∧ o < 0x100 + 256 := by
  simp [WritesByte, isWordUnit, isBlock]

theorem executed_read_of_not_writesByte {s t : State} {i : Instr} {o : Nat} (h : Executed s t i)
    (ho : ¬WritesByte i o) : t.mem.read o = s.mem.read o := by
  rw [WritesByte, not_or, not_or] at ho
  obtain ⟨hword, hblock, hkey⟩ := ho
  cases h <;> subst t
  case word w z hi => exact Memory.read_write128_outside _ _ fun hr => hword ⟨isWordUnit_of_eq hi, hr⟩
  case cached a hv ha hk x hi => exact s.read_setBout_outside _ _ fun hr => hblock ⟨isBlock_of_eq hi, hr⟩
  case expanded a hv ha hk hl x hi => exact s.read_setBout_outside _ _ fun hr => hblock ⟨isBlock_of_eq hi, hr⟩
  case keyclr => exact s.read_keyclr_outside fun hr => hkey ⟨rfl, hr⟩
  all_goals rfl

/-- Only the setup commands and an expansion write to the engine's own state. -/
theorem executed_keepsEngine {s t : State} {i : Instr} (h : Executed s t i)
    (hi : isWordUnit i = true ∨ i = .nop ∨ (isBlock i = true ∧ s.keyValid = true)) : KeepsEngine s t := by
  cases h <;> subst t
  case configure => simp [isWordUnit, isBlock] at hi
  case keyexp => simp [isWordUnit, isBlock] at hi
  case keyclr => simp [isWordUnit, isBlock] at hi
  case expanded a hv ha hk hl x hb => rcases hb with rfl | rfl <;> simp [isWordUnit, hk] at hi
  all_goals exact ⟨rfl, rfl, rfl, rfl, rfl⟩

theorem executed_cfgValid {s t : State} {i : Instr} (h : Executed s t i) (hi : i ≠ .configure) :
    t.cfgValid = s.cfgValid := by
  cases h <;> subst t
  case configure => exact absurd rfl hi
  all_goals rfl

/-- Only KEYCLR writes S beyond the entry 2r+1. -/
theorem executed_drop_table {s t : State} {i : Instr} (h : Executed s t i) (hi : i ≠ .keyclr) {a : Active}
    (ha : s.active? = some a) : t.S.drop a.t = s.S.drop a.t := by
  have filled (u : State) : (u.fillTable (s.expandedKey a)).S.drop a.t = u.S.drop a.t := by
    rw [← length_expandedKey s a]
    exact drop_fillTable _ u
  cases h <;> subst t
  case keyclr => exact absurd rfl hi
  case keyexp a' hv ha' hk =>
    cases ha.symm.trans ha'
    exact filled s
  case expanded a' hv ha' hk hl x hi =>
    cases ha.symm.trans ha'
    exact filled (s.setBout a.w x)
  all_goals rfl

/-- CONFIGURE writes none of the tables (R183). -/
theorem executed_configure {s t : State} (h : Executed s t .configure) :
    t.S = s.S ∧ t.L = s.L ∧ t.fresh = s.fresh := by
  cases h <;> subst t
  case cached hi => exact absurd (isBlock_of_eq hi) (by decide)
  case expanded hi => exact absurd (isBlock_of_eq hi) (by decide)
  case word hi => exact absurd (isWordUnit_of_eq hi) (by decide)
  all_goals exact ⟨rfl, rfl, rfl⟩

/-- KEYCLR draws no free value (R192). -/
theorem executed_keyclr_fresh {s t : State} (h : Executed s t .keyclr) : t.fresh = s.fresh := by
  cases h <;> subst t
  case expanded hi => exact absurd (isBlock_of_eq hi) (by decide)
  all_goals rfl

/-- Settles O8: each family writes the bytes and the tables that are its own. -/
theorem commandFrames : Obligations.CommandFrames := by
  intro i s t h
  have he := exec_cases h
  have bytes {o : Nat} : ¬WritesByte i o → t.mem.read o = s.mem.read o := executed_read_of_not_writesByte he
  refine ⟨fun hi => ?_, fun hi => ?_, ?_, ?_, ?_, ?_⟩
  · exact ⟨executed_keepsEngine he (.inl hi), fun o ho => bytes (by rwa [writesByte_of_isWordUnit hi])⟩
  · exact ⟨executed_cfgValid he (by rintro rfl; simp [isBlock] at hi),
      fun o ho => bytes (by rwa [writesByte_of_isBlock hi]),
      fun hk => executed_keepsEngine he (.inr (.inr ⟨hi, hk⟩)),
      fun a ha => executed_drop_table he (isBlock_ne_keyclr hi) ha⟩
  · rintro rfl
    exact ⟨executed_keepsEngine he (.inr (.inl rfl)), fun o => bytes (not_writesByte rfl rfl (by decide) o)⟩
  · rintro rfl
    obtain ⟨hS, hL, hfresh⟩ := executed_configure he
    exact ⟨hS, hL, hfresh, fun o => bytes (not_writesByte rfl rfl (by decide) o)⟩
  · rintro rfl
    exact ⟨executed_cfgValid he (by decide), fun o => bytes (not_writesByte rfl rfl (by decide) o),
      fun a ha => executed_drop_table he (by decide) ha⟩
  · rintro rfl
    exact ⟨executed_cfgValid he (by decide), executed_keyclr_fresh he,
      fun o ho => bytes (by rwa [writesByte_keyclr])⟩

/-! ### The acceptance of a command (R130) -/

/-- Settles O42: the rule of CMD. -/
theorem commandAcceptance : Obligations.CommandAcceptance := fun _ _ _ hw hb =>
  ⟨_, step_of_registerWrite hw .cmd rfl rfl (by decide) (.inl hb), rfl, rfl, rfl, rfl, rfl, rfl, rfl, rfl, rfl, rfl,
    rfl, rfl, rfl, rfl, rfl, rfl⟩

/-! ### A pending command and the host's accesses (R131, R133) -/

/-- All that an access leaves of a pending command: everything but DONE, IE, the sticky bits and the host's side of the
bus. -/
structure HoldsCommand (s t : State) : Prop where
  hardware : KeepsHardware s { t with done := s.done, ie := s.ie }
  delay : t.delay = s.delay

theorem hostRead_holdsCommand (o : Nat) (s : State) : HoldsCommand s (hostRead o s) := by
  rcases hostRead_cases o s with ⟨-, h⟩ | ⟨-, h⟩ <;> rw [h] <;> exact ⟨keepsHardware_refl s, rfl⟩

theorem written_holdsCommand {s t : State} {o : Nat} {v : Word32} (h : Written o v s t) (hb : s.busy = true) :
    t.busy = false ∨ HoldsCommand s t := by
  cases h <;> subst t
  case srst => exact .inl rfl
  case accessError => exact .inr ⟨keepsHardware_refl s, rfl⟩
  case dropped => exact .inr ⟨keepsHardware_refl s, rfl⟩
  case status => exact .inr ⟨keepsHardware_refl s, rfl⟩
  case ie => exact .inr ⟨keepsHardware_refl s, rfl⟩
  all_goals exact absurd ‹s.busy = false› (by simp [hb])

/-- A host operation resets a busy engine or leaves its command pending as it was. -/
theorem performed_holdsCommand {s t : State} {op : HostOp} (h : Performed s t op) (hb : s.busy = true) :
    t.busy = false ∨ HoldsCommand s t := by
  cases h with
  | read o ho ht => subst ht; exact .inr (hostRead_holdsCommand o s)
  | write o v ho ht => subst ht; exact written_holdsCommand (hostWrite_cases o v s) hb
  | wait ht =>
    obtain ⟨hardware, delay⟩ := hostRead_holdsCommand 0x008 s
    rw [if_pos hb] at ht
    subst ht
    exact .inr ⟨hardware, delay⟩
  | reset ht => subst ht; exact .inl rfl

theorem completionDue_of_busy {s : State} (hb : s.busy = true) (h : s.delay = 0 ∨ s.host = []) :
    s.completionDue = true := by
  simp only [State.completionDue, hb, Bool.true_and, Bool.or_eq_true, beq_iff_eq, List.isEmpty_iff]
  exact h

theorem step_holdsCommand {s t : State} (h : step s = .next t) (hb : s.busy = true) (hd : s.completionDue = false) :
    t.busy = false ∨ ∃ rest, HoldsCommand (s.taken rest) t := by
  cases step_cases h with
  | executed i hd' => simp [hd] at hd'
  | illegal e hd' => simp [hd] at hd'
  | idle _ hh => simp [completionDue_of_busy hb (.inr hh)] at hd
  | access op rest _ hh hp => exact (performed_holdsCommand hp hb).imp_right fun hold => ⟨rest, hold⟩

/-- Settles O57: without a reset the command stays pending (R25), and DONE stays 0 while it is (R28). -/
theorem busyHoldsInputs : Obligations.BusyHoldsInputs := by
  intro s t h hb hnd hd hr
  obtain ⟨-, -, busy_falls, -⟩ := lifecycleBitsChangeOnlyBy s t h
  have htb : t.busy = true := by
    by_contra ht
    rcases busy_falls hb (Bool.eq_false_iff.mpr ht) with hdue | hreset
    · simp [hd] at hdue
    · exact hr hreset
  rcases step_holdsCommand h hb hd with ht | ⟨rest, ⟨-, hcv, hkv, -, he, -, hc, hl, hm, hS, hL, hp, -⟩, hdelay⟩
  · simp [htb] at ht
  · have hdone : t.done = s.done := (step_keeps_busyNotDone h hnd htb).trans (hnd hb).symm
    exact ⟨htb, hp, hc, hl, hm, hS, hL, hcv, hkv, he, hdone, hdelay⟩

/-! ### Progress (R133) -/

/-- Every access that the host still has to make is to the window. -/
def State.HostInWindow (s : State) : Prop := ∀ op ∈ s.host, op.InWindow

theorem step_of_hostInWindow {s : State} (hw : s.HostInWindow) : ∃ t, step s = .next t := by
  refine (stepStopsOnlyOutsideWindow s).resolve_right ?_
  rintro ⟨-, -, op, rest, hh, hout⟩
  exact hout (hw op (by simp [hh]))

theorem written_host {s t : State} {o : Nat} {v : Word32} (h : Written o v s t) : t.host = s.host := by
  cases h <;> subst t <;> rfl

/-- No operation adds an access that was not on the host's list. -/
theorem performed_host {s t : State} {op : HostOp} (h : Performed s t op) : t.host ⊆ op :: s.host := by
  cases h with
  | read o ho ht => subst ht; simp
  | write o v ho ht => subst ht; simp [written_host (hostWrite_cases o v s)]
  | wait ht => subst ht; split <;> simp
  | reset ht => subst ht; simp

theorem step_keeps_hostInWindow {s t : State} (h : step s = .next t) (hw : s.HostInWindow) : t.HostInWindow := by
  cases step_cases h with
  | executed i hd hf he =>
    obtain ⟨-, -, -, -, -, -, hh, -⟩ := executed_keeps he
    rwa [State.HostInWindow, hh]
  | illegal e hd hf ht => subst ht; exact hw
  | idle hd hh ht => subst ht; exact hw
  | access op rest hd hh hp => exact fun op' hop => hw op' (hh ▸ performed_host hp hop)

theorem after_succ {s t : State} (h : step s = .next t) (n : Nat) : s.after (n + 1) = t.after n := by
  rw [State.after, h]

theorem busy_of_completion {s t : State} (h : step s = .next t) (hd : s.completionDue = true) : t.busy = false := by
  obtain ⟨completes, -⟩ := lifecycleBitsChangeOnlyBy s t h
  obtain ⟨hb, -⟩ := completes hd
  exact hb

/-- The completion is due, or an access goes first: it resets the engine or takes one off `delay`. -/
theorem step_progress {s t : State} (h : step s = .next t) (hb : s.busy = true) :
    t.busy = false ∨ (s.delay ≠ 0 ∧ t.delay = s.delay - 1) := by
  cases hd : s.completionDue with
  | true => exact .inl (busy_of_completion h hd)
  | false =>
    have hne : s.delay ≠ 0 := fun h0 => by simp [completionDue_of_busy hb (.inl h0)] at hd
    exact (step_holdsCommand h hb hd).imp_right fun ⟨_, hold⟩ => ⟨hne, hold.delay⟩

/-- Settles O60: by induction on the accesses that may still precede the completion. -/
theorem acceptedCommandCompletes : Obligations.AcceptedCommandCompletes := by
  intro s hb hw
  induction hk : s.delay generalizing s with
  | zero =>
    obtain ⟨t, h⟩ := step_of_hostInWindow hw
    exact ⟨1, t, le_rfl, after_succ h 0, (step_progress h hb).resolve_right fun ⟨hne, _⟩ => hne hk⟩
  | succ k ih =>
    obtain ⟨t, h⟩ := step_of_hostInWindow hw
    cases htb : t.busy with
    | false => exact ⟨1, t, by omega, after_succ h 0, htb⟩
    | true =>
      obtain ⟨-, hdelay⟩ := (step_progress h hb).resolve_left (by simp [htb])
      obtain ⟨n, u, hn, hu, hidle⟩ := ih t htb (step_keeps_hostInWindow h hw) (by omega)
      exact ⟨n + 1, u, by omega, (after_succ h n).trans hu, hidle⟩

end Sys2Proof.Machine
end

section
/-! PROOF. The word unit: the primitives in numbers (R150 to R153), and the commands on WX, WY and WZ (R154 to R163). -/

namespace Sys2Proof.Machine

/-! ### Add and subtract (R150, R151) -/

theorem toNat_addW {w : Nat} (a b : Word w) : (addW a b).toNat = (a.toNat + b.toNat) % 2 ^ w := BitVec.toNat_add a b

/-- The computed form of R151. -/
theorem toNat_subW {w : Nat} (a b : Word w) : (subW a b).toNat = (a.toNat + 2 ^ w - b.toNat) % 2 ^ w := by
  have hb := b.isLt
  rw [subW, BitVec.toNat_sub, show 2 ^ w - b.toNat + a.toNat = a.toNat + 2 ^ w - b.toNat by omega]

theorem addW_eq_iff {w : Nat} {a b d : Word w} : addW d b = a ↔ d = subW a b := by
  constructor
  · rintro rfl
    exact (subW_addW d b).symm
  · rintro rfl
    exact addW_subW a b

/-- Settles O9: addition and subtraction in numbers; each undoes the other. -/
theorem addSubtractWrap : Obligations.AddSubtractWrap :=
  fun _ a b => ⟨toNat_addW a b, toNat_subW a b, fun _ => addW_eq_iff⟩

/-! ### Rotates (R152, R153) -/

theorem toNat_rotl {w : Nat} (x : Word w) (n : Nat) : (rotl x n).toNat = rotlNat w x.toNat n := by
  simp only [rotl, rotlNat]
  split
  · rfl
  · rw [BitVec.toNat_or, BitVec.toNat_shiftLeft, BitVec.toNat_ushiftRight, Nat.shiftLeft_eq, Nat.shiftRight_eq_div_pow]

theorem toNat_rotr {w : Nat} (x : Word w) (n : Nat) : (rotr x n).toNat = rotrNat w x.toNat n := by
  simp only [rotr, rotrNat]
  split
  · rfl
  · rw [BitVec.toNat_or, BitVec.toNat_ushiftRight, BitVec.toNat_shiftLeft, Nat.shiftLeft_eq, Nat.shiftRight_eq_div_pow]

/-- A rotate right by `n` takes each bit from where the rotate left by `n` puts it. -/
theorem rotl_rotr {w : Nat} (x : Word w) (n : Nat) : rotl (rotr x n) n = x := by
  refine BitVec.eq_of_getLsbD_eq fun i hi => ?_
  have hw : 0 < w := by omega
  have hn := Nat.mod_lt n hw
  rw [getLsbD_rotl _ _ _ hi, getLsbD_rotr _ _ _ (Nat.mod_lt _ hw), Nat.mod_add_mod,
    show i + (w - n % w) + n % w = i + w by omega, Nat.add_mod_right, Nat.mod_eq_of_lt hi]

/-- The two shifts of a rotate right by `s` are those of the rotate left by `w - s`. -/
theorem rotr_eq_rotl {w : Nat} (x : Word w) (n : Nat) (hw : 0 < w) : rotr x n = rotl x (w - n % w) := by
  have hn := Nat.mod_lt n hw
  by_cases hs : n % w = 0
  · simp [rotr, rotl, hs]
  · have hmod : (w - n % w) % w = w - n % w := Nat.mod_eq_of_lt (by omega)
    have hne : w - n % w ≠ 0 := by omega
    have hback : w - (w - n % w) = n % w := by omega
    simp only [rotr, rotl, hs, hmod, hne, hback, ↓reduceIte]
    exact BitVec.or_comm _ _

/-- Settles O10: the two shifts in numbers. -/
theorem rotateLeftRule : Obligations.RotateLeftRule := fun _ x n => toNat_rotl x n

/-- Settles O11: the two shifts in numbers, and the two laws of R153. -/
theorem rotateRightRule : Obligations.RotateRightRule :=
  fun w x n => ⟨toNat_rotr x n, rotl_rotr x n, rotr_eq_rotl x n (widthBits_pos w)⟩

/-! ### Operands and results (R104, R154) -/

/-- V2 is a number below 2^128: an immediate has 8 bits (R105). -/
theorem toNat_operand2 (s : State) {v2 : Operand2} (hv : v2.WellFormed = true) :
    (s.operand2 v2).toNat = v2Value s v2 := by
  cases v2 with
  | wy => rfl
  | imm v =>
    have h : v < 256 := by simpa [Operand2.WellFormed] using hv
    rw [State.operand2, v2Value, BitVec.toNat_ofNat, Nat.mod_eq_of_lt (by omega)]

/-- A word command that succeeds writes its result to WZ and nothing else (R154). -/
theorem setWz_wordResult (s : State) {w : Width} {z : Word (widthBits w)} {n : Nat} (hz : z.toNat = n) :
    WordResult s ((s.setWz z).complete .ok) n := by
  refine ⟨?_, ⟨rfl, rfl, rfl⟩, ⟨rfl, rfl, rfl, rfl, rfl, rfl, rfl, rfl, rfl⟩, ⟨rfl, rfl, rfl, rfl, rfl⟩,
    fun o ho => Memory.read_write128_outside _ _ ho⟩
  calc (((s.setWz z).complete .ok).wz).toNat
    _ = (zext128 z).toNat := congrArg BitVec.toNat (s.wz_setWz w z)
    _ = n := by rw [toNat_zext128, hz]

section Operands

variable {w : Width} {v2 : Operand2} {s : State}

/-- WX and V2 are two words, on which every binary command computes. -/
theorem exists_binary_words (hv : v2.WellFormed = true) (hx : s.wx.toNat < 2 ^ widthBits w)
    (hy : v2Value s v2 < 2 ^ widthBits w) :
    ∃ x y : Word (widthBits w), x.toNat = s.wx.toNat ∧ y.toNat = v2Value s v2 ∧
      ∀ f, finish s (wordBinary w v2 f s) = .next ((s.setWz (f x y)).complete .ok) := by
  rw [← toNat_operand2 s hv] at hy ⊢
  exact ⟨_, _, toNat_trunc_of_lt hx, toNat_trunc_of_lt hy, fun f => by rw [wordBinary_ok hx hy, finish_ok]⟩

/-- WX is a word, which both rotates turn by V2. -/
theorem exists_rotate_word (hv : v2.WellFormed = true) (hx : s.wx.toNat < 2 ^ widthBits w) :
    ∃ x : Word (widthBits w), x.toNat = s.wx.toNat ∧
      ∀ f, finish s (wordRotate w v2 f s) = .next ((s.setWz (f x (v2Value s v2))).complete .ok) :=
  ⟨_, toNat_trunc_of_lt hx, fun f => by rw [wordRotate_ok hx, finish_ok, toNat_operand2 s hv]⟩

end Operands

/-! ### The results (R156 to R163) -/

/-- WBUILD has no check (R156). -/
theorem exec_wbuild (w : Width) (s : State) :
    exec (.wbuild w) s = .next ((s.setWz (trunc (widthBits w) s.wx)).complete .ok) := finish_ok s _

/-- Settles O12: the truncated word in numbers. -/
theorem wbuildResult : Obligations.WbuildResult := fun w s =>
  ⟨_, exec_wbuild w s, setWz_wordResult s (toNat_trunc w s.wx)⟩

/-- Settles O13: the sum and the difference of the two words. -/
theorem waddWsubResult : Obligations.WaddWsubResult := by
  intro w v2 s hv hx hy
  obtain ⟨x, y, hx, hy, run⟩ := exists_binary_words hv hx hy
  rw [← hx, ← hy]
  exact ⟨⟨_, run addW, setWz_wordResult s (toNat_addW x y)⟩, ⟨_, run subW, setWz_wordResult s (toNat_subW x y)⟩⟩

/-- Settles O14: the two rotates of the word. -/
theorem rotateResults : Obligations.RotateResults := by
  intro w v2 s hv hx
  obtain ⟨x, hx, run⟩ := exists_rotate_word hv hx
  rw [← hx]
  exact ⟨⟨_, run rotl, setWz_wordResult s (toNat_rotl x _)⟩, ⟨_, run rotr, setWz_wordResult s (toNat_rotr x _)⟩⟩

/-- Settles O15: the bitwise operations of the two words. -/
theorem bitwiseResults : Obligations.BitwiseResults := by
  intro w v2 s hv hx hy
  obtain ⟨x, y, hx, hy, run⟩ := exists_binary_words hv hx hy
  rw [← hx, ← hy]
  exact ⟨⟨_, run (· &&& ·), setWz_wordResult s (BitVec.toNat_and x y)⟩,
    ⟨_, run (· ||| ·), setWz_wordResult s (BitVec.toNat_or x y)⟩,
    ⟨_, run (· ^^^ ·), setWz_wordResult s (BitVec.toNat_xor x y)⟩⟩

/-- The result of a comparison is a word of every width (R163). -/
theorem toNat_ite_eq {w : Width} (x y : Word (widthBits w)) :
    (if x = y then 1 else 0 : Word (widthBits w)).toNat = if x.toNat = y.toNat then 1 else 0 := by
  have hone : (1#(widthBits w)).toNat = 1 := BitVec.toNat_one (widthBits_pos w)
  simp only [apply_ite BitVec.toNat, BitVec.ofNat_eq_ofNat, BitVec.toNat_zero, BitVec.toNat_inj, hone]

/-- Settles O16: the comparison of the two words. -/
theorem weqResult : Obligations.WeqResult := by
  intro w v2 s hv hx hy
  obtain ⟨x, y, hx, hy, run⟩ := exists_binary_words hv hx hy
  rw [← hx, ← hy]
  exact ⟨_, run fun x y => if x = y then 1 else 0, setWz_wordResult s (toNat_ite_eq x y)⟩

/-! ### The width check (R155) -/

theorem finish_widthError {s : State} {r : Except ErrCode State} (h : r = .error .widthError) :
    ∃ t, finish s r = .next t ∧ FailsWith s t .widthError :=
  ⟨_, by rw [h, finish_error], complete_failsWith s _⟩

/-- The commands whose two operands are words. -/
theorem exec_eq_wordBinary {w : Width} {v2 : Operand2} {i : Instr}
    (hi : i ∈ [Instr.wadd w v2, .wsub w v2, .wand w v2, .wor w v2, .wxor w v2, .weq w v2]) (s : State) :
    ∃ f, exec i s = finish s (wordBinary w v2 f s) := by
  simp only [List.mem_cons, List.not_mem_nil, or_false] at hi
  rcases hi with rfl | rfl | rfl | rfl | rfl | rfl <;> exact ⟨_, rfl⟩

/-- The commands whose second operand is an amount. -/
theorem exec_eq_wordRotate {w : Width} {v2 : Operand2} {i : Instr} (hi : i ∈ [Instr.wrotl w v2, .wrotr w v2])
    (s : State) : ∃ f, exec i s = finish s (wordRotate w v2 f s) := by
  simp only [List.mem_cons, List.not_mem_nil, or_false] at hi
  rcases hi with rfl | rfl <;> exact ⟨_, rfl⟩

/-- Settles O17: the checks of the binary commands, of the rotates and of WBUILD. -/
theorem widthErrorsExactly : Obligations.WidthErrorsExactly := by
  intro w v2 s hv
  refine ⟨fun i hi => ?_, fun i hi => ?_, _, exec_wbuild w s, rfl, rfl, rfl⟩
  · obtain ⟨f, hf⟩ := exec_eq_wordBinary hi s
    rw [hf]
    refine ⟨fun h => finish_widthError (wordBinary_error ?_), fun ⟨hx, hy⟩ => ?_⟩
    · rw [toNat_operand2 s hv]
      omega
    · obtain ⟨x, y, -, -, run⟩ := exists_binary_words hv hx hy
      exact ⟨_, run f, rfl, rfl, rfl⟩
  · obtain ⟨f, hf⟩ := exec_eq_wordRotate hi s
    rw [hf]
    refine ⟨fun h => finish_widthError (wordRotate_error h.not_gt), fun hx => ?_⟩
    obtain ⟨x, -, run⟩ := exists_rotate_word hv hx
    exact ⟨_, run f, rfl, rfl, rfl⟩

/-! ### What a word-unit command depends on (R154, R162) -/

/-- V2, given what WY holds. -/
def operand2Of (v2 : Operand2) (y : Word128) : Word128 :=
  match v2 with
  | .wy => y
  | .imm v => BitVec.ofNat 128 v

theorem operand2_eq_operand2Of (s : State) (v2 : Operand2) : s.operand2 v2 = operand2Of v2 s.wy := by cases v2 <;> rfl

section Value

variable (w : Width) (v2 : Operand2)

/-- The result of a binary command, given what WX and WY hold; none where the width check fails (R155). -/
def binaryValue (f : Word (widthBits w) → Word (widthBits w) → Word (widthBits w)) (x y : Word128) :
    Option (Word (widthBits w)) :=
  if x.toNat < 2 ^ widthBits w ∧ (operand2Of v2 y).toNat < 2 ^ widthBits w then
    some (f (trunc _ x) (trunc _ (operand2Of v2 y)))
  else none

/-- The result of a rotate, given what WX and WY hold; none where the width check fails (R155). -/
def rotateValue (f : Word (widthBits w) → Nat → Word (widthBits w)) (x y : Word128) : Option (Word (widthBits w)) :=
  if x.toNat < 2 ^ widthBits w then some (f (trunc _ x) (operand2Of v2 y).toNat) else none

/-- The state after a word-unit command with the given result, or with WIDTH_ERROR if there is none. -/
def State.completeWord {w : Width} (s : State) (z : Option (Word (widthBits w))) : State :=
  match z with
  | some z => (s.setWz z).complete .ok
  | none => s.complete .widthError

theorem finish_wordBinary (f) (s : State) :
    finish s (wordBinary w v2 f s) = .next (s.completeWord (binaryValue w v2 f s.wx s.wy)) := by
  rw [binaryValue, ← operand2_eq_operand2Of]
  split
  · next h => rw [wordBinary_ok h.1 h.2, finish_ok, State.completeWord]
  · next h => rw [wordBinary_error h, finish_error, State.completeWord]

theorem finish_wordRotate (f) (s : State) :
    finish s (wordRotate w v2 f s) = .next (s.completeWord (rotateValue w v2 f s.wx s.wy)) := by
  rw [rotateValue, ← operand2_eq_operand2Of]
  split
  · next h => rw [wordRotate_ok h, finish_ok, State.completeWord]
  · next h => rw [wordRotate_error h, finish_error, State.completeWord]

end Value

/-- A word-unit command puts a word of its width into WZ, or ends with WIDTH_ERROR; WX and WY alone determine which. -/
theorem exec_wordUnit {i : Instr} {w : Width} (hi : wordWidth i = some w) :
    ∃ value : Word128 → Word128 → Option (Word (widthBits w)),
      ∀ s, exec i s = .next (s.completeWord (value s.wx s.wy)) := by
  cases i with
  | nop | configure | keyexp | encrypt | decrypt | keyclr => simp [wordWidth] at hi
  | wbuild => cases hi; exact ⟨fun x _ => some (trunc _ x), exec_wbuild w⟩
  | wadd | wsub | wand | wor | wxor | weq => cases hi; exact ⟨binaryValue _ _ _, finish_wordBinary _ _ _⟩
  | wrotl | wrotr => cases hi; exact ⟨rotateValue _ _ _, finish_wordRotate _ _ _⟩

theorem exists_wordWidth {i : Instr} (hi : isWordUnit i = true) : ∃ w, wordWidth i = some w := by
  cases i with
  | nop | configure | keyexp | encrypt | decrypt | keyclr => simp [isWordUnit] at hi
  | wbuild w | wadd w | wsub w | wrotl w | wrotr w | wand w | wor w | wxor w | weq w => exact ⟨w, rfl⟩

theorem wz_completeWord_some {w : Width} (s : State) (z : Word (widthBits w)) :
    (s.completeWord (some z)).wz = zext128 z := s.wz_setWz w z

theorem err_completeWord_none {w : Width} (s : State) : (s.completeWord (w := w) none).err ≠ .ok := by
  simp [State.completeWord]

/-- A zero-extended word passes the width check of its width as itself. -/
theorem checkWord_zext128 (w : Width) (z : Word (widthBits w)) : checkWord w (zext128 z) = .ok z := by
  rw [checkWord_ok (by rw [toNat_zext128]; exact z.isLt), trunc_zext128]

/-- Settles O18: WZ holds the zero extension of a word. -/
theorem wordResultsFitWidth : Obligations.WordResultsFitWidth := by
  intro i w s t hi h herr
  obtain ⟨value, hexec⟩ := exec_wordUnit hi
  obtain rfl : s.completeWord (value s.wx s.wy) = t := by simpa [hexec] using h
  cases hv : value s.wx s.wy with
  | none => exact absurd (hv ▸ herr) (err_completeWord_none s)
  | some z =>
    rw [wz_completeWord_some, toNat_zext128]
    exact ⟨z.isLt, z, checkWord_zext128 w z, rfl⟩

/-- Settles O19: both runs end with the same word, or both with WIDTH_ERROR. -/
theorem wordUnitIgnoresConfiguration : Obligations.WordUnitIgnoresConfiguration := by
  intro i s s' hi hx hy
  obtain ⟨w, hw⟩ := exists_wordWidth hi
  obtain ⟨value, hexec⟩ := exec_wordUnit hw
  refine ⟨_, _, hexec s, hexec s', ?_⟩
  rw [← hx, ← hy]
  cases value s.wx s.wy with
  | none => exact ⟨rfl, fun herr => absurd herr (err_completeWord_none s)⟩
  | some z => exact ⟨rfl, fun _ => by rw [wz_completeWord_some, wz_completeWord_some]⟩

end Sys2Proof.Machine
end

section
/-! PROOF. CONFIGURE and KEYCLR (R183, R192): the check of CONFIGURE in numbers, and what each of the two writes. -/

namespace Sys2Proof.Machine

/-! ### CONFIGURE (R183) -/

theorem configLegal_iff (s : State) : s.configLegal = true ↔ ConfigAccepted s := by
  rw [State.configLegal, ConfigAccepted, Cfg.width?]
  cases Width.ofCode s.cfg.ws.toNat with
  | none => simp
  | some w => cases hp : s.cfg.pqovr <;> simp [← BitVec.toNat_inj, and_assoc]

theorem exec_configure_of_not_legal {s : State} (h : ¬s.configLegal = true) :
    exec .configure s = .next (s.complete .configError) := by
  rw [exec, execConfigure, if_neg h, finish_error]

/-- Settles O21: the two answers to the check of R183. -/
theorem configureResult : Obligations.ConfigureResult := by
  intro s
  rw [← configLegal_iff]
  constructor
  · intro legal
    exact ⟨_, exec_configure_of_legal legal, ⟨rfl, rfl, rfl⟩, rfl, rfl,
      ⟨rfl, rfl, rfl, rfl, rfl, rfl, rfl, rfl, rfl⟩, rfl, rfl, rfl, rfl⟩
  · intro illegal
    exact ⟨_, exec_configure_of_not_legal illegal, complete_failsWith s _⟩

/-! ### KEYCLR (R192) -/

theorem exec_keyclr (s : State) : exec .keyclr s = .next (s.clearKey.complete .ok) := finish_ok s s.clearKey

theorem State.read_keyclr_key (s : State) {k : Nat} (hk : k < 256) :
    (s.clearKey.complete .ok).mem.read (0x100 + k) = 0 := by
  rw [State.complete_mem, State.clearKey_mem, Memory.read_writeBytes, length_zeroBytes, if_pos (by omega),
    getD_zeroBytes]

/-- Settles O23: `State.clearKey`, on the bytes of KEY, on the other bytes and on the tables. -/
theorem keyclrResult : Obligations.KeyclrResult := by
  intro s
  exact ⟨_, exec_keyclr s, ⟨rfl, rfl, rfl⟩, rfl, rfl, fun _ => s.read_keyclr_key, fun _ => s.read_keyclr_outside,
    List.length_replicate, fun _ => List.eq_of_mem_replicate, List.length_replicate, fun _ => List.eq_of_mem_replicate,
    ⟨rfl, rfl, rfl, rfl, rfl, rfl, rfl, rfl, rfl⟩, rfl⟩

end Sys2Proof.Machine
end

section
/-! PROOF. The key expansion: the table before mixing (R188), the mixing loop as iterated passes (R187), and the sizes of
the schedule (R191). -/

namespace Sys2Proof.Machine

/-! ### The table before mixing (R188) -/

theorem getD_seedTable {w t i : Nat} (P Q : Word w) (h : i < t) :
    (seedTable P Q t).getD i 0 = addW P (BitVec.ofNat w (i * Q.toNat)) := by
  induction t generalizing P i with
  | zero => omega
  | succ t ih =>
    cases i with
    | zero => simp [seedTable, addW]
    | succ i =>
      calc (seedTable (addW P Q) Q t).getD i 0
        _ = addW (addW P Q) (BitVec.ofNat w (i * Q.toNat)) := ih _ (Nat.lt_of_succ_lt_succ h)
        _ = addW P (BitVec.ofNat w ((i + 1) * Q.toNat)) := by
          simp only [addW]
          rw [Nat.succ_mul, Nat.add_comm, BitVec.ofNat_add, BitVec.ofNat_toNat, BitVec.setWidth_eq, BitVec.add_assoc]

/-! ### The mixing loop (R187) -/

theorem toNat_addW_addW {w : Nat} (a b c : Word w) :
    (addW (addW a b) c).toNat = (a.toNat + b.toNat + c.toNat) % 2 ^ w := by
  rw [toNat_addW, toNat_addW, Nat.mod_add_mod]

theorem mixPass_mixStep {w : Nat} (t c : Nat) (m : Mix w) : MixPass t c m (mixStep t c m) := by
  refine ⟨?_, ?_, rfl, rfl, rfl, rfl⟩
  · rw [mixStep, toNat_rotl, toNat_addW_addW]
  · rw [mixStep, toNat_rotl, toNat_addW_addW, toNat_addW]

theorem mixLoop_eq_iterate {w : Nat} (t c n : Nat) (m : Mix w) : mixLoop t c n m = (mixStep t c)^[n] m := by
  induction n generalizing m with
  | zero => rfl
  | succ n ih => rw [mixLoop, ih, Function.iterate_succ_apply]

/-- Settles O24: the entries by induction on the table, one pass in numbers, and the loop as its iterate. -/
theorem seedTableClosedForm : Obligations.SeedTableClosedForm := by
  refine ⟨fun w P Q t i h => ⟨length_seedTable P Q t, getD_seedTable P Q h⟩, by decide, fun w => mixPass_mixStep, ?_⟩
  rintro w K r t c P Q rfl rfl
  rw [keyExpand, mixLoop_eq_iterate]
  rfl

/-! ### The sizes of the schedule (R191) -/

theorem ceilDiv_eq_succ {b u : Nat} (hb : 0 < b) (hu : 0 < u) : ceilDiv b u = (b - 1) / u + 1 := by
  rw [ceilDiv, ← Nat.add_div_right _ hu, Nat.sub_add_comm hb]

/-- The number of key words of a key of 1 to 255 bytes; only words of one byte make it 255. -/
theorem ceilDiv_widthBytes_bounds (w : Width) {b : Nat} (hb : 0 < b) (hlt : b < 256) :
    1 ≤ ceilDiv b (widthBytes w) ∧ ceilDiv b (widthBytes w) ≤ 255 ∧
      (ceilDiv b (widthBytes w) = 255 → w = .w8 ∧ b = 255) := by
  rw [ceilDiv_eq_succ hb (widthBytes_pos w)]
  have le_self : (b - 1) / widthBytes w ≤ b - 1 := Nat.div_le_self _ _
  refine ⟨Nat.le_add_left 1 _, by omega, fun h => ⟨?_, by omega⟩⟩
  cases w with
  | w8 => rfl
  | w16 | w32 | w64 | w128 => simp only [widthBytes, widthBits, Nat.reduceDiv] at h; omega

/-- Settles O26: r is 1 to 255 and b is 1 to 255 where CONFIGURE accepts. -/
theorem scheduleSizes : Obligations.ScheduleSizes := by
  intro s a legal active
  obtain ⟨_, -, rounds, keyBytes, -⟩ := (configLegal_iff s).mp legal
  obtain ⟨-, -, -, hb, ht, -⟩ := active_activeNumbers active
  obtain ⟨b_lt, -⟩ := active_bounds active
  have rounds_lt := s.cfg.rounds.isLt
  obtain ⟨c_pos, c_le, c_max⟩ := ceilDiv_widthBytes_bounds a.w (by omega) b_lt
  rw [← Active.u] at c_pos c_le c_max
  exact ⟨by omega, by omega, c_pos, c_le, c_max, by omega, by omega, length_expandedKey s a⟩

end Sys2Proof.Machine
end

section
/-! PROOF. The built-in constants against the formulas of R181. The floor at 128 bits determines the floors at the
smaller widths, so one rational enclosure of each real number is enough. -/

namespace Sys2Proof.Machine

theorem floor_mul_two_pow_widthBits {x : ℝ} {n : ℕ} (h : ⌊x * 2 ^ 128⌋₊ = n) (w : Width) :
    ⌊x * 2 ^ widthBits w⌋₊ = n / 2 ^ (128 - widthBits w) := by
  have shift : x * 2 ^ widthBits w = x * 2 ^ 128 / ((2 ^ (128 - widthBits w) : ℕ) : ℝ) := by
    rw [Nat.cast_pow, Nat.cast_ofNat, eq_div_iff (by positivity), mul_assoc, ← pow_add,
      Nat.add_sub_cancel' (widthBits_le w)]
  rw [shift, Nat.floor_div_natCast, h]

/-- The first 36 terms of the series of e enclose it closely enough to fix 128 bits of its fraction. -/
theorem floor_exp_one_sub_two : ⌊(Real.exp 1 - 2) * 2 ^ 128⌋₊ = 0xB7E151628AED2A6ABF7158809CF4F3C7 := by
  have lower := Real.sum_le_exp_of_nonneg zero_le_one 36
  have upper := Real.exp_bound' zero_le_one le_rfl (n := 36) (by decide)
  simp only [Finset.sum_range_succ, Finset.sum_range_zero, one_pow, Nat.factorial] at lower upper
  rw [Nat.floor_eq_iff (by linarith [Real.exp_one_gt_two])]
  push_cast at lower upper ⊢
  constructor <;> linarith

/-- Settles O27: the floor at each width is the upper part of the one at 128 bits. -/
theorem romPFromE : Obligations.RomPFromE := by
  intro w
  rw [floor_mul_two_pow_widthBits floor_exp_one_sub_two]
  cases w <;> decide

/-- Two neighbouring fractions with the denominator 2^127 enclose the square root of 5. -/
theorem floor_goldenRatio_sub_one :
    ⌊((1 + Real.sqrt 5) / 2 - 1) * 2 ^ 128⌋₊ = 0x9E3779B97F4A7C15F39CC0605CEDC834 := by
  have lower : (0x9E3779B97F4A7C15F39CC0605CEDC834 + 2 ^ 127) / 2 ^ 127 ≤ Real.sqrt 5 :=
    Real.le_sqrt_of_sq_le (by norm_num)
  have upper : Real.sqrt 5 < (0x9E3779B97F4A7C15F39CC0605CEDC835 + 2 ^ 127) / 2 ^ 127 :=
    (Real.sqrt_lt' (by norm_num)).mpr (by norm_num)
  rw [Nat.floor_eq_iff (by linarith)]
  constructor <;> linarith

/-- Settles O28: the floor at each width is the upper part of the one at 128 bits, which is even. -/
theorem romQFromGoldenRatio : Obligations.RomQFromGoldenRatio := by
  intro w
  rw [floor_mul_two_pow_widthBits floor_goldenRatio_sub_one]
  cases w <;> decide

end Sys2Proof.Machine
end

section
/-! PROOF. The two block transforms: each round in numbers (R213, R214), that the transforms undo each other (R218), and
the entries of the table that they read (R220). -/

namespace Sys2Proof.Machine

/-- A rotate left by `n` takes each bit from where the rotate right by `n` puts it. -/
theorem rotr_rotl {w : Nat} (x : Word w) (n : Nat) : rotr (rotl x n) n = x := by
  refine BitVec.eq_of_getLsbD_eq fun i hi => ?_
  have hw : 0 < w := by omega
  have hn := Nat.mod_lt n hw
  rw [getLsbD_rotr _ _ _ hi, getLsbD_rotl _ _ _ (Nat.mod_lt _ hw), Nat.mod_add_mod,
    show i + n % w + (w - n % w) = i + w by omega, Nat.add_mod_right, Nat.mod_eq_of_lt hi]

/-! ### One round -/

/-- A line of R213: the word `a`, mixed with the other word `b` and the entry `k`. -/
theorem toNat_encryptLine {w : Nat} (a b k : Word w) :
    (addW (rotl (a ^^^ b) b.toNat) k).toNat = (rotlNat w (a.toNat ^^^ b.toNat) b.toNat + k.toNat) % 2 ^ w := by
  rw [toNat_addW, toNat_rotl, BitVec.toNat_xor]

/-- A line of R214, with the same words as the line of R213 that it undoes. -/
theorem toNat_decryptLine {w : Nat} (a b k : Word w) :
    (rotr (subW a k) b.toNat ^^^ b).toNat
      = rotrNat w ((a.toNat + 2 ^ w - k.toNat) % 2 ^ w) b.toNat ^^^ b.toNat := by
  rw [BitVec.toNat_xor, toNat_rotr, toNat_subW]

section
variable {w : Nat} (S : List (Word w)) (i : Nat) (x : Word w × Word w)

/-- R213 in numbers. -/
theorem encryptRound_numbers : EncryptRound S i x (encryptRound S i x) := ⟨toNat_encryptLine .., toNat_encryptLine ..⟩

/-- R214 in numbers. -/
theorem decryptRound_numbers : DecryptRound S i x (decryptRound S i x) := ⟨toNat_decryptLine .., toNat_decryptLine ..⟩

/-- Each line of R214 undoes one line of R213, with the same amount of rotation. -/
theorem decryptRound_encryptRound : decryptRound S i (encryptRound S i x) = x := by
  simp only [decryptRound, encryptRound, subW_addW, rotr_rotl, xor_xor_self]

theorem encryptRound_decryptRound : encryptRound S i (decryptRound S i x) = x := by
  simp only [decryptRound, encryptRound, addW_subW, rotl_rotr, xor_xor_self]

end

/-! ### All rounds -/

section
variable {w : Nat} (S : List (Word w)) (r : Nat) (x : Word w × Word w)

theorem encryptWords_succ : encryptWords S (r + 1) x = encryptRound S (r + 1) (encryptWords S r x) := rfl

theorem decryptWords_succ : decryptWords S (r + 1) x = decryptWords S r (decryptRound S (r + 1) x) := rfl

theorem decryptWords_encryptWords : decryptWords S r (encryptWords S r x) = x := by
  induction r with
  | zero => simp only [encryptWords, encryptRounds, decryptWords, decryptRounds, subW_addW]
  | succ r ih => rw [encryptWords_succ, decryptWords_succ, decryptRound_encryptRound, ih]

theorem encryptWords_decryptWords : encryptWords S r (decryptWords S r x) = x := by
  induction r generalizing x with
  | zero => simp only [encryptWords, encryptRounds, decryptWords, decryptRounds, addW_subW]
  | succ r ih => rw [decryptWords_succ, encryptWords_succ, ih, encryptRound_decryptRound]

end

/-- Settles O33: the equations of the two transforms by the number of rounds, each round in numbers, and the two inverse
laws. -/
theorem cipherRoundTrip : Obligations.CipherRoundTrip := fun _ S r x =>
  ⟨⟨toNat_addW _ _, toNat_addW _ _⟩, encryptRound_numbers S (r + 1) _, ⟨toNat_subW _ _, toNat_subW _ _⟩,
    ⟨_, decryptRound_numbers S (r + 1) x, decryptWords_succ S r x⟩,
    decryptWords_encryptWords S r x, encryptWords_decryptWords S r x⟩

/-! ### The entries that are read (R220) -/

section
variable {w : Nat} {S S' : List (Word w)} {i r : Nat} (x : Word w × Word w)

/-- Round `i` reads the entries 2i and 2i + 1. -/
theorem encryptRound_congr (h0 : entry S (2 * i) = entry S' (2 * i)) (h1 : entry S (2 * i + 1) = entry S' (2 * i + 1)) :
    encryptRound S i x = encryptRound S' i x := by
  rw [encryptRound, encryptRound, h0, h1]

theorem decryptRound_congr (h0 : entry S (2 * i) = entry S' (2 * i)) (h1 : entry S (2 * i + 1) = entry S' (2 * i + 1)) :
    decryptRound S i x = decryptRound S' i x := by
  rw [decryptRound, decryptRound, h0, h1]

theorem encryptWords_congr (h : ∀ i, i < 2 * (r + 1) → entry S i = entry S' i) :
    encryptWords S r x = encryptWords S' r x := by
  induction r with
  | zero => rw [encryptWords, encryptWords, h 0 (by omega), h 1 (by omega)]; rfl
  | succ r ih =>
    rw [encryptWords_succ, encryptWords_succ, ih fun i hi => h i (by omega),
      encryptRound_congr _ (h _ (by omega)) (h _ (by omega))]

theorem decryptWords_congr (h : ∀ i, i < 2 * (r + 1) → entry S i = entry S' i) :
    decryptWords S r x = decryptWords S' r x := by
  induction r generalizing x with
  | zero => rw [decryptWords, decryptWords, h 0 (by omega), h 1 (by omega)]; rfl
  | succ r ih =>
    rw [decryptWords_succ, decryptWords_succ, ih _ fun i hi => h i (by omega),
      decryptRound_congr _ (h _ (by omega)) (h _ (by omega))]

end

/-- Settles O35: by induction on the number of rounds, for each transform. -/
theorem cipherReadsTableOnly : Obligations.CipherReadsTableOnly := fun _ _ _ _ x h =>
  ⟨encryptWords_congr x h, decryptWords_congr x h⟩

end Sys2Proof.Machine
end

section
/-! PROOF. The block commands of a ready engine (R216, R217), and the round trip through BOUT and BIN (R218). Both commands
are `blockCommand` of a transform, so each fact is proved once for every transform. -/

namespace Sys2Proof.Machine

/-! ### A block as bytes (R210, R211) -/

/-- The bytes of a block, `toLE_u(A) ++ toLE_u(B)` (R211). -/
def wordsBytes (w : Width) (x : Word (widthBits w) × Word (widthBits w)) : List Byte :=
  leBytes (widthBytes w) x.1.toNat ++ leBytes (widthBytes w) x.2.toNat

theorem blockBytes_eq (w : Width) (x : Word (widthBits w) × Word (widthBits w)) :
    blockBytes w x = wordsBytes w x ++ zeroBytes (32 - 2 * widthBytes w) := rfl

theorem length_wordsBytes (w : Width) (x : Word (widthBits w) × Word (widthBits w)) :
    (wordsBytes w x).length = 2 * widthBytes w := by
  rw [wordsBytes, List.length_append, length_leBytes, length_leBytes, Nat.two_mul]

theorem two_pow_widthBits (w : Width) : 2 ^ widthBits w = 256 ^ widthBytes w := by
  rw [widthBits_eq, Nat.pow_mul]

theorem ofNat_leValue_leBytes (w : Width) (x : Word (widthBits w)) :
    BitVec.ofNat (widthBits w) (leValue (leBytes (widthBytes w) x.toNat)) = x := by
  rw [leValue_leBytes, ← two_pow_widthBits, Nat.mod_eq_of_lt x.isLt, BitVec.ofNat_toNat, BitVec.setWidth_eq]

theorem leBytes_ofNat_leValue (w : Width) {bs : List Byte} (h : bs.length = widthBytes w) :
    leBytes (widthBytes w) (BitVec.ofNat (widthBits w) (leValue bs)).toNat = bs := by
  have fits := leValue_lt bs
  rw [h, ← two_pow_widthBits] at fits
  rw [BitVec.toNat_ofNat, Nat.mod_eq_of_lt fits, ← h, leBytes_leValue]

theorem wordsBytes_blockIn (s : State) (w : Width) :
    wordsBytes w (s.blockIn w) = s.mem.readBytes 0x040 (2 * widthBytes w) := by
  rw [Nat.two_mul, Memory.readBytes_append, wordsBytes, State.blockIn,
    leBytes_ofNat_leValue w (Memory.length_readBytes ..), leBytes_ofNat_leValue w (Memory.length_readBytes ..)]

/-- BIN holding the bytes of a block is that block. -/
theorem blockIn_of_wordsBytes {s : State} {w : Width} {x : Word (widthBits w) × Word (widthBits w)}
    (h : s.mem.readBytes 0x040 (2 * widthBytes w) = wordsBytes w x) : s.blockIn w = x := by
  rw [Nat.two_mul, Memory.readBytes_append, wordsBytes] at h
  obtain ⟨hA, hB⟩ := List.append_inj h (by rw [Memory.length_readBytes, length_leBytes])
  rw [State.blockIn, hA, hB, ofNat_leValue_leBytes, ofNat_leValue_leBytes]

/-- The first 2u bytes of BOUT are the block's. -/
theorem readBytes_bout_words {m : Memory} {w : Width} {x : Word (widthBits w) × Word (widthBits w)}
    (h : m.readBytes 0x060 32 = blockBytes w x) : m.readBytes 0x060 (2 * widthBytes w) = wordsBytes w x := by
  have hu := widthBytes_le w
  rw [show 32 = 2 * widthBytes w + (32 - 2 * widthBytes w) by omega, Memory.readBytes_append, blockBytes_eq] at h
  exact List.append_inj_left h (by rw [Memory.length_readBytes, length_wordsBytes])

/-! ### The result of a block command (R216, R217) -/

/-- `t` is `s` after a block command that put the block `y` into BOUT under the configuration `a`. -/
structure BlockDone (s : State) (a : Active) (y : Word (widthBits a.w) × Word (widthBits a.w)) (t : State) : Prop where
  bout : t.mem.readBytes 0x060 32 = blockBytes a.w y
  bytes : KeepsBytesOutside 0x060 32 s t
  status : Completes .ok t
  inputs : KeepsInputs s t
  cfgValid : t.cfgValid = true
  keyValid : t.keyValid = true
  table : t.S.take a.t = (s.expandedKey a).map zext128
  rest : t.S.drop a.t = s.S.drop a.t

section
variable {s : State} {a : Active} {len : Nat}

/-- A ready engine works with the expanded key, cached or not (R215). -/
theorem BlockReady.roundKeys (h : BlockReady s a len) : s.roundKeys a = .ok (s.expandedKey a) := by
  obtain ⟨-, ha, hl, hf, -⟩ := h
  by_cases hk : s.keyValid = true
  · exact roundKeys_of_cacheFresh hf hk ha
  · rw [State.roundKeys, if_neg hk, State.expandChecked, if_pos hl]

theorem BlockReady.blockDone (h : BlockReady s a len)
    (f : {w : Nat} → List (Word w) → Nat → Word w × Word w → Word w × Word w) :
    ∃ t, finish s (blockCommand f len s) = .next t ∧
      BlockDone s a (f (s.expandedKey a) a.r (s.blockIn a.w)) t := by
  have hr := h.roundKeys
  obtain ⟨hv, ha, -, hf, hlen⟩ := h
  have hc := configured_ok hv ha
  have bytes (y) : KeepsBytesOutside 0x060 32 s (s.setBout a.w y) := fun _ => s.read_setBout_outside a.w y
  cases hk : s.keyValid with
  | true =>
    obtain ⟨-, -, htable⟩ := cachedKey_of_cacheFresh hf hk ha
    refine ⟨_, congrArg (finish s) (blockCommand_cached f hc hr hlen hk), readBytes_setBout s a.w _, bytes _,
      ⟨rfl, rfl, rfl⟩, ⟨rfl, rfl, rfl, rfl, rfl, rfl, rfl, rfl, rfl⟩, hv, hk, htable, rfl⟩
  | false =>
    have htake := take_fillTable (s.expandedKey a) s
    have hdrop := drop_fillTable (s.expandedKey a) s
    rw [length_expandedKey] at htake hdrop
    refine ⟨_, congrArg (finish s) (blockCommand_filled f hc hr hlen hk), readBytes_setBout s a.w _, bytes _,
      ⟨rfl, rfl, rfl⟩, ⟨rfl, rfl, rfl, rfl, rfl, rfl, rfl, rfl, rfl⟩, hv, rfl, htake, hdrop⟩

end

/-- Settles O29: the block command with EncryptWords. -/
theorem encryptResult : Obligations.EncryptResult := by
  intro s a len h
  obtain ⟨t, ht, bout, bytes, status, inputs, cfgValid, keyValid, table, rest⟩ := h.blockDone encryptWords
  obtain ⟨-, ha, -⟩ := h
  exact ⟨active_activeNumbers ha, t, _, ht, rfl, bout, bytes, status, inputs, cfgValid, keyValid, table, rest⟩

/-- Settles O30: the block command with DecryptWords. -/
theorem decryptResult : Obligations.DecryptResult := by
  intro s a len h
  obtain ⟨t, ht, bout, bytes, status, inputs, cfgValid, keyValid, table, rest⟩ := h.blockDone decryptWords
  obtain ⟨-, ha, -⟩ := h
  exact ⟨active_activeNumbers ha, t, _, ht, rfl, bout, bytes, status, inputs, cfgValid, keyValid, table, rest⟩

/-! ### The round trip (R218) -/

theorem read_copyBoutToBin (s : State) (n : Nat) {o : Nat} (h : ¬(0x040 ≤ o ∧ o < 0x040 + n)) :
    (s.copyBoutToBin n).mem.read o = s.mem.read o :=
  Memory.read_writeBytes_outside _ _ (by rwa [Memory.length_readBytes])

theorem readBytes_copyBoutToBin (s : State) (n : Nat) :
    (s.copyBoutToBin n).mem.readBytes 0x040 n = s.mem.readBytes 0x060 n := by
  have h := Memory.readBytes_writeBytes_same s.mem 0x040 (s.mem.readBytes 0x060 n)
  rwa [Memory.length_readBytes] at h

namespace BlockDone

variable {s t : State} {a : Active} {y : Word (widthBits a.w) × Word (widthBits a.w)} (d : BlockDone s a y t)
include d

/-- A block command and the copy of the block write bytes of BIN and BOUT only. -/
theorem read_copy {o : Nat} (ho : ¬(0x040 ≤ o ∧ o < 0x080)) :
    (t.copyBoutToBin (2 * a.u)).mem.read o = s.mem.read o := by
  have hu : a.u ≤ 16 := widthBytes_le a.w
  rw [read_copyBoutToBin t _ (by omega), d.bytes o (by omega)]

theorem expandedKey_copy : (t.copyBoutToBin (2 * a.u)).expandedKey a = s.expandedKey a :=
  expandedKey_congr fun _ _ _ => d.read_copy (by omega)

theorem blockIn_copy : (t.copyBoutToBin (2 * a.u)).blockIn a.w = y :=
  blockIn_of_wordsBytes ((readBytes_copyBoutToBin t _).trans (readBytes_bout_words d.bout))

/-- After a block command the engine is ready for the copied block, with the table cached. -/
theorem blockReady_copy {len : Nat} (h : BlockReady s a len) : BlockReady (t.copyBoutToBin (2 * a.u)) a len := by
  obtain ⟨-, ha, hl, -, hlen⟩ := h
  obtain ⟨-, -, -, hcfg, hklen, -⟩ := d.inputs
  have active : (t.copyBoutToBin (2 * a.u)).active? = some a :=
    (active_congr (t := t.copyBoutToBin (2 * a.u)) hcfg fun _ _ _ => d.read_copy (by omega)).trans ha
  have klen : (t.copyBoutToBin (2 * a.u)).klen.toNat = a.b := (congrArg BitVec.toNat hklen).trans hl
  have table : t.S.take a.t = ((t.copyBoutToBin (2 * a.u)).expandedKey a).map zext128 := by
    rw [d.expandedKey_copy, d.table]
  exact ⟨d.cfgValid, active, klen, fun _ => ⟨a, active, klen, table⟩, hlen⟩

end BlockDone

/-- A block command, the copy of BOUT into BIN, and the command of the inverse transform. -/
theorem BlockReady.roundTrip {s : State} {a : Active} {len : Nat} (h : BlockReady s a len)
    (f g : {w : Nat} → List (Word w) → Nat → Word w × Word w → Word w × Word w)
    (inverse : ∀ {w : Nat} (S : List (Word w)) (r : Nat) (x : Word w × Word w), g S r (f S r x) = x) :
    ∃ t t', finish s (blockCommand f len s) = .next t ∧
      finish (t.copyBoutToBin len) (blockCommand g len (t.copyBoutToBin len)) = .next t' ∧ t'.err = .ok ∧
      t'.mem.readBytes 0x060 len = s.mem.readBytes 0x040 len := by
  obtain ⟨t, ht, d⟩ := h.blockDone f
  obtain ⟨t', ht', d'⟩ := (d.blockReady_copy h).blockDone g
  obtain ⟨-, -, -, -, rfl⟩ := h
  obtain ⟨herr, -⟩ := d'.status
  have bout := d'.bout
  rw [d.expandedKey_copy, d.blockIn_copy, inverse] at bout
  exact ⟨t, t', ht, ht', herr, (readBytes_bout_words bout).trans (wordsBytes_blockIn s a.w)⟩

/-- Settles O34: each transform is the inverse of the other. -/
theorem machineRoundTrip : Obligations.MachineRoundTrip := fun _ _ _ h =>
  ⟨h.roundTrip encryptWords decryptWords decryptWords_encryptWords,
    h.roundTrip decryptWords encryptWords encryptWords_decryptWords⟩

end Sys2Proof.Machine
end

section
/-! PROOF. The errors of the engine commands in their order (R241, R244): what each check answers, and that a command whose
checks answer an error ends with it and nothing else. -/

namespace Sys2Proof.Machine

/-! ### The checks (R184, R215, R241) -/

theorem configured_of_not_cfgValid {s : State} (h : s.cfgValid = false) : s.configured = .error .notConfigured := by
  rcases configured_cases s with ⟨_, _, hv, _⟩ | hc
  · simp [h] at hv
  · exact hc

theorem roundKeys_badLength {s : State} {a : Active} (hk : s.keyValid = false) (hl : s.klen.toNat ≠ a.b) :
    s.roundKeys a = .error .keyLengthError := by
  rcases roundKeys_cases s a with ⟨hk', _⟩ | ⟨_, hl', _⟩ | ⟨_, _, hr⟩
  · simp [hk] at hk'
  · exact absurd hl' hl
  · exact hr

theorem exists_roundKeys {s : State} {a : Active} (h : s.keyValid = true ∨ s.klen.toNat = a.b) :
    ∃ T, s.roundKeys a = .ok T := by
  rcases roundKeys_cases s a with ⟨_, hr⟩ | ⟨_, _, hr⟩ | ⟨hk, hl, _⟩
  · exact ⟨_, hr⟩
  · exact ⟨_, hr⟩
  · simp [hk, hl] at h

/-! ### The failing commands (R136, R244) -/

section
variable {s : State} {e : ErrCode} {i : Instr}

theorem exists_failsWith (h : exec i s = .next (s.complete e)) : ∃ t, exec i s = .next t ∧ FailsWith s t e :=
  ⟨_, h, complete_failsWith s e⟩

/-- The two block commands fail alike: their checks do not depend on the transform. -/
theorem exists_failsWith_of_blockCommand {len : Nat} (hi : i ∈ [Instr.encrypt len, .decrypt len])
    (h : ∀ f : {w : Nat} → List (Word w) → Nat → Word w × Word w → Word w × Word w, blockCommand f len s = .error e) :
    ∃ t, exec i s = .next t ∧ FailsWith s t e := by
  simp only [List.mem_cons, List.not_mem_nil, or_false] at hi
  rcases hi with rfl | rfl
  · exact exists_failsWith (congrArg (finish s) (h encryptWords))
  · exact exists_failsWith (congrArg (finish s) (h decryptWords))

end

/-- Settles O31: each check is the first to answer an error once those before it have passed. -/
theorem engineErrorsInOrder : Obligations.EngineErrorsInOrder := by
  refine fun s len => ⟨fun hv i hi => ?_, fun a hv ha => ⟨fun hl => ?_, fun i hi => ⟨fun hk hl => ?_, fun h hlen => ?_⟩⟩⟩
  · have hc := configured_of_not_cfgValid hv
    rcases List.mem_cons.mp hi with rfl | hi
    · exact exists_failsWith (exec_keyexp_notConfigured hc)
    · exact exists_failsWith_of_blockCommand hi fun f => blockCommand_notConfigured f hc
  · exact exists_failsWith (exec_keyexp_badLength (configured_ok hv ha) hl)
  · exact exists_failsWith_of_blockCommand hi fun f =>
      blockCommand_noKeys f (configured_ok hv ha) (roundKeys_badLength hk hl)
  · obtain ⟨T, hr⟩ := exists_roundKeys h
    exact exists_failsWith_of_blockCommand hi fun f => blockCommand_badLength f (configured_ok hv ha) hr hlen

end Sys2Proof.Machine
end

section
/-! PROOF. What raises irq (R53, R243, R250): DONE rises only at a completion, and IE only at a write to CTRL. -/

namespace Sys2Proof.Machine

theorem irq_eq_true_iff (s : State) : s.irq = true ↔ s.done = true ∧ s.ie = true := Bool.and_eq_true_iff

/-- What a step can do to IE. -/
inductive IeStep (s t : State) : Prop where
  /-- It does not change. -/
  | kept (hie : t.ie = s.ie) : IeStep s t
  /-- Either reset (R270, R272). -/
  | reset (hr : ResetNext s) (hie : t.ie = false) : IeStep s t
  /-- A write to CTRL that is no soft reset (R33). -/
  | written (v : Word32) (rest : List HostOp) (hw : HostWrites s 0x00C v rest) (hsrst : v.getLsbD 1 = false)
      (hie : t.ie = v.getLsbD 0) : IeStep s t

theorem written_ie {s t : State} {o : Nat} {v : Word32} {rest : List HostOp} (hw : HostWrites s o v rest)
    (hn : ¬(o = 0x00C ∧ v.getLsbD 1 = true)) (h : Written o v (s.taken rest) t) : IeStep s t := by
  cases h <;> subst t
  case ie ho hv => subst ho; exact .written v rest hw hv rfl
  case srst ho hv => exact absurd ⟨ho, hv⟩ hn
  all_goals exact .kept rfl

/-- The inversion lemma of IE. -/
theorem step_ie {s t : State} (h : step s = .next t) : IeStep s t := by
  cases step_event h with
  | executed i hd hf he =>
    obtain ⟨-, -, hie, -⟩ := executed_keeps he
    exact .kept hie
  | illegal hd ht => subst ht; exact .kept rfl
  | observed hd hk hovr hbe =>
    obtain ⟨-, -, -, -, -, hie, -⟩ := hk
    exact .kept hie
  | reset hr rest ht => subst ht; exact .reset hr rfl
  | written o v rest hw hn hwr => exact written_ie hw hn hwr

/-- Settles O58: if IE was set already then DONE has risen, and if the step is a write to CTRL then DONE has not. -/
theorem irqRisesOnlyBy : Obligations.IrqRisesOnlyBy := by
  intro s t h hirq hirq'
  obtain ⟨hdone', hie'⟩ := (irq_eq_true_iff t).mp hirq'
  obtain ⟨-, -, -, done_rises, -⟩ := lifecycleBitsChangeOnlyBy s t h
  cases step_ie h with
  | kept hie =>
    have hie : s.ie = true := hie ▸ hie'
    have hdone : s.done = false := by simpa [State.irq, hie] using hirq
    exact .inl ⟨done_rises hdone hdone', hie⟩
  | reset _ hie => simp [hie] at hie'
  | written v rest hw hsrst hie =>
    have hdone : s.done = true := by
      by_contra hdone
      have hd := done_rises (Bool.eq_false_iff.mpr hdone) hdone'
      simp [hw.1] at hd
    exact .inr ⟨hdone, v, rest, hw, hie ▸ hie', hsrst⟩

end Sys2Proof.Machine
end

section
/-! PROOF. A write to a busy engine (R280): of all that a write can do, only the drop is left. -/

namespace Sys2Proof.Machine

/-- While BUSY a write that is no access error and goes neither to STATUS nor to CTRL is dropped: every other rule of a
register belongs to an idle engine. -/
theorem hostWrite_of_busy {o : Nat} (v : Word32) {s : State} (hbusy : s.busy = true) (he : writeError o = false)
    (h8 : o ≠ 0x008) (hC : o ≠ 0x00C) : hostWrite o v s = s.dropWrite := by
  have not_idle : s.busy ≠ false := ne_false_of_eq_true hbusy
  cases hostWrite_cases o v s with
  | dropped _ _ _ _ ht => exact ht
  | accessError he' => exact absurd he' (ne_true_of_eq_false he)
  | status ho => exact absurd ho h8
  | ie ho | srst ho => exact absurd ho hC
  | cmd _ hidle | cfg _ hidle | klen _ hidle => exact absurd hidle not_idle
  | override _ _ hidle | key _ _ hidle | data _ _ hidle => exact absurd hidle not_idle

/-- Settles O41: the step of the write is the drop. -/
theorem busyWritesDropped : Obligations.BusyWritesDropped := by
  intro s o v rest hw hbusy herr h8 hC
  have ⟨_, _, hlt⟩ := hw
  have he : writeError o = false := Bool.eq_false_iff.mpr (mt (writeError_iff o hlt).mp herr)
  refine ⟨_, step_of_hostWrites hw, ?_⟩
  rw [hostWrite_of_busy (s := s.taken rest) v hbusy he h8 hC]
  exact ⟨rfl, rfl, keepsHardware_refl s, rfl, rfl⟩

end Sys2Proof.Machine
end
